-- ==== Sys2Proof/Syntax.lean ====
section
/-! DEFINITION. The command set: one constructor for each row of the opcode table (R82 of 30_encoding.md). No command has an
operand field (R83), so no constructor has an argument. -/

namespace Sys2Proof

/-- The six commands of R82. -/
inductive Instr where
  /-- NOP, R200 -/
  | nop
  /-- KEYSCHED, R100 -/
  | keysched
  /-- ENCRYPT, R120 -/
  | encrypt
  /-- DECRYPT, R122 -/
  | decrypt
  /-- CLEAR, R201 -/
  | clear
  /-- ACK, R202 -/
  | ack
deriving DecidableEq, Repr

end Sys2Proof
end

