-- ==== Sys2Proof/Word.lean ====
section
/-! DEFINITION. The bit-vector types of the engine (R10, R11 of 00_scope.md) and the shape of its constant tables. All values are
unsigned bit vectors of a stated width (R15); machine numbering (R13(a)) is BitVec's own. -/

namespace Sys2Proof

/-- A bus word: 32 bits (R11). -/
abbrev Word := BitVec 32

/-- A key or a data block: 64 bits (R10). -/
abbrev Block := BitVec 64

/-- A half of the data block, L or R: 32 bits (R10). -/
abbrev Half := BitVec 32

/-- A half of the key-schedule state, C or D: 28 bits (R10). -/
abbrev KeyHalf := BitVec 28

/-- A round subkey: 48 bits (R10). -/
abbrev Subkey := BitVec 48

/-- A permutation table for values of `n` bits giving values of `m` bits: entry j (counted from 1) is the DES bit index, in the
input, of output DES bit j (44_tables.md, reading rule). Every index is in 1..n (R161), checked when a table is written. -/
structure PermTable (n m : Nat) where
  entries : Vector Nat m
  inRange : entries.toList.all (fun t => decide (1 ≤ t) && decide (t ≤ n)) = true

/-- An S-box: 4 rows of 16 columns of 4-bit values (R10). -/
abbrev SBox := Vector (Vector (BitVec 4) 16) 4

/-- The direction of a block transform (R30, R130). -/
inductive Direction where
  | encrypt
  | decrypt
deriving DecidableEq, Repr

end Sys2Proof
end

