-- ==== Sys2Proof/Decode.lean ====
section
/-! DEFINITION. Decoding a command word and encoding a command (R80 to R85 of 30_encoding.md). A command is exactly one 32-bit
word (R81); it reaches the engine as a number on the bus, so no byte order enters (R62 of 20_memory.md, log 10). -/

namespace Sys2Proof

/-- Why a word spells no command (R84). Raised by `decode`; the engine answers both with ERR <- ILLEGAL_COMMAND. -/
inductive DecodeError where
  /-- RSVD, bits 31:4, is not 0 -/
  | reservedBits
  /-- OPC is in 0x6..0xF -/
  | reservedOpcode
deriving DecidableEq, Repr

/-- The field OPC of format CMD32, bits 3:0 (R80). -/
def opcField (w : Word) : BitVec 4 := w.extractLsb' 0 4

/-- The field RSVD of format CMD32, bits 31:4 (R80). -/
def rsvdField (w : Word) : BitVec 28 := w.extractLsb' 4 28

/-- The opcode map (R82). -/
def opcodeMap (opc : BitVec 4) : Except DecodeError Instr :=
  match opc.toNat with
  | 0 => .ok .nop
  | 1 => .ok .keysched
  | 2 => .ok .encrypt
  | 3 => .ok .decrypt
  | 4 => .ok .clear
  | 5 => .ok .ack
  | _ => .error .reservedOpcode

/-- Decoding (R85): total, every word is one of the six commands or ILLEGAL. -/
def decode (w : Word) : Except DecodeError Instr :=
  if rsvdField w = 0#28 then opcodeMap (opcField w) else .error .reservedBits

/-- The opcode of a command (R82). -/
def opcodeOf : Instr → BitVec 4
  | .nop => 0x0#4
  | .keysched => 0x1#4
  | .encrypt => 0x2#4
  | .decrypt => 0x3#4
  | .clear => 0x4#4
  | .ack => 0x5#4

/-- The command word of a command (R80, R82): RSVD = 0, then OPC. -/
def encode (i : Instr) : Word := 0#28 ++ opcodeOf i

/-- The command word in the low `nbits` bits of `w`, the rest zero: a command word is 32 bits (R81). -/
def tableWord (nbits w : Nat) : Word := BitVec.ofNat 32 (w % 2 ^ nbits)

/-- What the decoder reads from an instruction whose bits, numbered as the opcode table numbers them, are `w` (log 10). -/
def decodeTableWord (nbits w : Nat) : Option Instr :=
  match decode (tableWord nbits w) with
  | .ok i => some i
  | .error _ => none

end Sys2Proof
end

