-- ==== Sys2Proof/Machine/State.lean ====
section
/-! DEFINITION. The state of the engine (10_state.md), of its register window (20_memory.md) and of the agents that act on it
(R8 of 00_scope.md); the reasons a step can stop; the state after reset (R270 of 70_reset_and_hazards.md). -/

namespace Sys2Proof.Machine

/-- OP, a 2-bit field whose four values are all named (R30): the most recently accepted multi-stage command. -/
inductive Op where
  | none
  | keysched
  | encrypt
  | decrypt
deriving DecidableEq, Repr, Inhabited

/-- The engine's architectural state: exactly the elements of the table of R20. SK[j] stands at index j - 1 of `sk` (log 12). -/
structure Engine where
  /-- KEY (R21) -/
  key : Block
  /-- KEY_HI_V, KEY_LO_V (R22) -/
  keyHiV : Bool
  keyLoV : Bool
  /-- DIN (R23) -/
  din : Block
  /-- DIN_HI_V, DIN_LO_V (R24) -/
  dinHiV : Bool
  dinLoV : Bool
  /-- DOUT (R25) -/
  dout : Block
  /-- C, D (R26) -/
  c : KeyHalf
  d : KeyHalf
  /-- L, R (R27) -/
  l : Half
  r : Half
  /-- SK[1..16] and KS_VALID (R28) -/
  sk : Vector Subkey 16
  ksValid : Bool
  /-- STAGE (R29) -/
  stage : BitVec 5
  /-- OP (R30) -/
  op : Op
  /-- BUSY (R32) -/
  busy : Bool
  /-- DONE (R33) -/
  done : Bool
  /-- ERR (R34) -/
  err : BitVec 4
  /-- SK_SEL (R35) -/
  skSel : BitVec 4
deriving DecidableEq, Repr, Inhabited

/-- Every element at its reset value (R20, R270). -/
def Engine.reset : Engine where
  key := 0#64
  keyHiV := false
  keyLoV := false
  din := 0#64
  dinHiV := false
  dinLoV := false
  dout := 0#64
  c := 0#28
  d := 0#28
  l := 0#32
  r := 0#32
  sk := Vector.replicate 16 0#48
  ksValid := false
  stage := 0#5
  op := .none
  busy := false
  done := false
  err := 0#4
  skSel := 0#4

/-- The sixteen registers of the window (R52). -/
inductive Reg where
  | cmd
  | status
  | keyHi
  | keyLo
  | dinHi
  | dinLo
  | doutHi
  | doutLo
  | dbgL
  | dbgR
  | dbgC
  | dbgD
  | skSel
  | skHi
  | skLo
  | id
deriving DecidableEq, Repr

/-- Where a bus access lands (R51): at an offset of the window, or at a host address that is not the engine's (log 4). -/
inductive Port where
  | window (off : BitVec 6)
  | outside (addr : Nat)
deriving DecidableEq, Repr

/-- A bus read, or a bus write with its data. The engine looks at the data of a 4-byte write only (R53, R57). -/
inductive AccessKind where
  | read
  | write (w : Word)
deriving DecidableEq, Repr

/-- One bus access: where, how many bytes, and which kind (R53, R54). -/
structure Access where
  port : Port
  size : Nat
  kind : AccessKind
deriving DecidableEq, Repr

/-- What the host has to do next (R86 to R88): one bus access, the polling loop `wait`, or `halt`. The other host operations and
pseudo-operations are lists of these (Machine/HostProgram.lean). -/
inductive HostOp where
  | access (a : Access)
  | wait
  | halt
deriving DecidableEq, Repr

/-- The answer of the bus to one access (R55 to R57). -/
inductive Response where
  /-- the data of a read -/
  | data (v : Word)
  /-- a write completed normally -/
  | written
  /-- BusError(off), R57 -/
  | busError (off : BitVec 6)
deriving DecidableEq, Repr

/-- Who moves at a step (R8): the host, the engine, or the external events reset (R270) and loss of power (R258). -/
inductive Agent where
  | host
  | engine
  | reset
  | powerCycle
deriving DecidableEq, Repr

/-- The whole machine: the engine, and the model's own fields for the agents that act on it (logs 1, 2, 3, 6, 7). -/
structure State where
  /-- the engine's architectural state (R20) -/
  engine : Engine
  /-- a reset has come since power was applied (R271, log 6) -/
  ready : Bool
  /-- who moves next, oldest first (R8, R247, log 1) -/
  turns : List Agent
  /-- what the host has still to do, in arrival order (R67, R86, log 2) -/
  host : List HostOp
  /-- what the host goes on with after a bus error: `none` for its own next operation (93 I15, log 3) -/
  busErrorHandler : Option (List HostOp)
  /-- the responses the host has received, newest first (log 7) -/
  responses : List Response
  /-- counter that draws the free values of an unspecified engine (R271, log 6) -/
  powerUps : Nat
deriving DecidableEq, Repr

/-- Why the machine stops with a fault. -/
inductive Fault where
  /-- An engine step with BUSY = 1 and OP = 0: no rule gives it a stage (R104, R125). Raised by `engineStep`; unreachable from
  reset (R43(a)). Safe: the machine stops where the spec gives no effect (log 8). -/
  | noCommandInProgress
  /-- An engine step with BUSY = 1 and STAGE beyond the command's last stage (R104, R125). Raised by `ksStep` and `btStep`;
  unreachable from reset (R43(b)). Safe (log 8). -/
  | stageOutOfRange
  /-- Functional layer: a key or block of `len` bits, not 64 (R168). Raised by `deriveSubkeysBits`, `transformBlockBits`; no step
  raises it. Safe (log 11). -/
  | invalidInputLength (len : Nat)
  /-- Functional layer: XOR of lists of different lengths (R164). Raised by `xorBits`; no step raises it. Safe (log 11). -/
  | lengthMismatch (a b : Nat)
  /-- Functional layer: entry `entry` at place `j` of a permutation table is out of range (R160). Raised by `permuteBits`; no step
  raises it. Safe (log 11). -/
  | indexOutOfRange (j entry : Nat)
deriving DecidableEq, Repr

/-- Why the machine refuses to go on. -/
inductive Refusal where
  /-- An instruction without a meaning: none is left. Safe. -/
  | notModelled (mnemonic : String)
  /-- A host access outside the window: what it reaches is the platform's (R51, 93 I14). Raised by `busAccess`. Safe (log 4). -/
  | outsideWindow (addr : Nat)
  /-- A host access before the first reset: not admitted (R271, 93 I5). Raised by `hostTurn`. Safe (log 6). -/
  | accessBeforeReset
  /-- Functional layer: a subkey sequence of other than 16 elements of 48 bits (R168, 93 I20). Raised by `transformBlockBits`; no
  step raises it. Safe (log 11). -/
  | subkeySequence
deriving DecidableEq, Repr

/-- The machine right after reset (R270, R273): the engine at its reset values. The other fields are the model's own and the spec
gives them no value. DESIGN CHOICE: `ready` true and `powerUps` 0 (log 6), no turn (log 1), no host operation (log 2) and no response
(log 7) listed, and `busErrorHandler` none, a host that goes on with its own next operation after a bus error (93 I15, log 3). -/
def State.reset : State where
  engine := Engine.reset
  ready := true
  turns := []
  host := []
  busErrorHandler := none
  responses := []
  powerUps := 0

end Sys2Proof.Machine
end

