-- ==== Sys2Proof/Config.lean ====
section
/-! DEFINITION. What an implementation fixes (R12 of 00_scope.md) and the free values. Each is an uninterpreted constant: no
proof can see its value. -/

namespace Sys2Proof.Config

/-- ENGINE_BASE in units of 64 bytes (R12; log 4). -/
opaque engineBlock : Nat

/-- ENGINE_BASE, the byte address of offset 0 of the window: a multiple of 64 (R12, R51). -/
def engineBase : Nat := 64 * engineBlock

/-- CYCLES_PER_STAGE less one (R12; log 5). -/
opaque extraCyclesPerStage : Nat

/-- CYCLES_PER_STAGE, an integer of at least 1 (R12). No step of the model depends on it (R290). -/
def cyclesPerStage : Nat := extraCyclesPerStage + 1

/-- The engine's elements while they are unspecified, between power-up and the first reset: the n-th free value (R271; log 6). -/
opaque unspecifiedEngine : Nat → Machine.Engine

end Sys2Proof.Config
end

