-- ==== Sys2Proof/Machine/Flags.lean ====
section
/-! DEFINITION. The error codes (R240 of 60_exceptions.md), the STATUS word (R31 of 10_state.md) and the output done_o (R36). -/

namespace Sys2Proof.Machine

/-- NONE -/
def errNone : BitVec 4 := 0#4
/-- INVALID_INPUT_LENGTH -/
def errInvalidInputLength : BitVec 4 := 1#4
/-- LENGTH_MISMATCH, never raised by the engine (R244) -/
def errLengthMismatch : BitVec 4 := 2#4
/-- INDEX_OUT_OF_RANGE, never raised by the engine (R244) -/
def errIndexOutOfRange : BitVec 4 := 3#4
/-- NO_KEY_SCHEDULE -/
def errNoKeySchedule : BitVec 4 := 4#4
/-- BUSY -/
def errBusy : BitVec 4 := 5#4
/-- ILLEGAL_COMMAND -/
def errIllegalCommand : BitVec 4 := 6#4

/-- The value of the field OP (R30): the opcode of the command, 0 for none. -/
def opBits : Op → BitVec 2
  | .none => 0#2
  | .keysched => 1#2
  | .encrypt => 2#2
  | .decrypt => 3#2

/-- A flag as one bit. -/
def flagBit (b : Bool) : BitVec 1 := BitVec.ofBool b

/-- The STATUS word, field by field from bit 19 down to bit 0 (R31). -/
def statusWord (e : Engine) : Word :=
  (e.err ++ 0#1 ++ e.stage ++ opBits e.op ++ 0#1 ++ flagBit e.dinLoV ++ flagBit e.dinHiV ++ flagBit e.keyLoV
    ++ flagBit e.keyHiV ++ flagBit e.ksValid ++ flagBit e.done ++ flagBit e.busy).setWidth 32

/-- The output done_o, equal to DONE at all times (R36, R250). -/
def doneO (s : State) : Bool := s.engine.done

end Sys2Proof.Machine
end

