-- ==== Sys2Proof/Machine/Operands.lean ====
section
/-! DEFINITION. The register window (20_memory.md): which register an offset names, which accesses are well formed, and the value
each register reads as (45_control_and_access.md). -/

namespace Sys2Proof.Machine

/-- The register map (R52), by register number off[5:2]. -/
def regMap : Vector Reg 16 :=
  #v[.cmd, .status, .keyHi, .keyLo, .dinHi, .dinLo, .doutHi, .doutLo, .dbgL, .dbgR, .dbgC, .dbgD, .skSel, .skHi, .skLo, .id]

/-- The register at an offset: the engine decodes off[5:2] (R51). -/
def regAt (off : BitVec 6) : Reg := regMap[(off.extractLsb' 2 4).toFin]

/-- The offset of a register (R52). -/
def offsetOf : Reg → BitVec 6
  | .cmd => 0x00#6
  | .status => 0x04#6
  | .keyHi => 0x08#6
  | .keyLo => 0x0C#6
  | .dinHi => 0x10#6
  | .dinLo => 0x14#6
  | .doutHi => 0x18#6
  | .doutLo => 0x1C#6
  | .dbgL => 0x20#6
  | .dbgR => 0x24#6
  | .dbgC => 0x28#6
  | .dbgD => 0x2C#6
  | .skSel => 0x30#6
  | .skHi => 0x34#6
  | .skLo => 0x38#6
  | .id => 0x3C#6

/-- Where the host byte address `addr` lands when the window stands at `base` (R51). -/
def portOf (base addr : Nat) : Port :=
  if base ≤ addr ∧ addr < base + 64 then .window (BitVec.ofNat 6 (addr - base)) else .outside addr

/-- A host access by byte address, with the window at ENGINE_BASE (R16, R51). -/
def memAccess (addr size : Nat) (kind : AccessKind) : Access :=
  { port := portOf Config.engineBase addr, size := size, kind := kind }

/-- The part of well-formedness that is checked inside the window (R54, R57): 4 bytes, and off[1:0] = 0. -/
def alignedWord (off : BitVec 6) (size : Nat) : Bool := size == 4 && off.extractLsb' 0 2 == 0#2

/-- A well-formed access (R54). -/
def Access.wf (a : Access) : Bool :=
  match a.port with
  | .window off => alignedWord off a.size
  | .outside _ => false

/-- The upper word of a 64-bit register, DES bits 1..32 (R60). -/
def hiWord (v : Block) : Word := v.extractLsb' 32 32

/-- The lower word of a 64-bit register, DES bits 33..64 (R60). -/
def loWord (v : Block) : Word := v.extractLsb' 0 32

/-- `v` with its upper word replaced. -/
def withHi (v : Block) (w : Word) : Block := w ++ loWord v

/-- `v` with its lower word replaced. -/
def withLo (v : Block) (w : Word) : Block := hiWord v ++ w

/-- The subkey that SK_SEL selects: value s selects SK[s + 1] (R35). -/
def selectedSubkey (e : Engine) : Subkey := e.sk[e.skSel.toFin]

/-- The constant of the register ID (R222). -/
def idWord : Word := 0x44455331#32

/-- The value a register reads as (R204, R205, R210, R211, R213, R215, R216, R218 to R220, R222). No read changes the state
(R55). -/
def readReg (r : Reg) (e : Engine) : Word :=
  match r with
  | .cmd => 0#32
  | .status => statusWord e
  | .keyHi => 0#32
  | .keyLo => 0#32
  | .dinHi => hiWord e.din
  | .dinLo => loWord e.din
  | .doutHi => hiWord e.dout
  | .doutLo => loWord e.dout
  | .dbgL => e.l
  | .dbgR => e.r
  | .dbgC => e.c.setWidth 32
  | .dbgD => e.d.setWidth 32
  | .skSel => e.skSel.setWidth 32
  | .skHi => ((selectedSubkey e).extractLsb' 32 16).setWidth 32
  | .skLo => (selectedSubkey e).extractLsb' 0 32
  | .id => idWord

end Sys2Proof.Machine
end

