-- ==== Sys2Proof/Machine/HostProgram.lean ====
section
/-! DEFINITION. The host program notation (R86, R87 of 30_encoding.md): each operation as the bus operations it stands for. -/

namespace Sys2Proof.Machine

/-- `wr NAME, w` (R86): BusWrite at the register's offset. -/
def wr (r : Reg) (w : Word) : HostOp := .access { port := .window (offsetOf r), size := 4, kind := .write w }

/-- `rd NAME` (R86): BusRead at the register's offset; the value read is the response. -/
def rd (r : Reg) : HostOp := .access { port := .window (offsetOf r), size := 4, kind := .read }

/-- `cmd MNEMONIC` (R86): a write of the command word to CMD. -/
def cmdOp (i : Instr) : HostOp := wr .cmd (encode i)

/-- `ldkey K64` (R87). -/
def ldkey (k : Block) : List HostOp := [wr .keyHi (hiWord k), wr .keyLo (loWord k)]

/-- `ldblk B64` (R87). -/
def ldblk (b : Block) : List HostOp := [wr .dinHi (hiWord b), wr .dinLo (loWord b)]

/-- The accesses of `rdout` (R87). -/
def rdout : List HostOp := [rd .doutHi, rd .doutLo]

/-- The value of `rdout` from the two words read (R87): v = h ++ l. -/
def rdoutValue (h l : Word) : Block := h ++ l

/-- The accesses of `rdsk J` (R87), J in 1..16. -/
def rdsk (j : Nat) : List HostOp := [wr .skSel (BitVec.ofNat 32 (j - 1)), rd .skHi, rd .skLo]

/-- The value of `rdsk` from the two words read (R87): k = h[15:0] ++ l. -/
def rdskValue (h l : Word) : Subkey := h.extractLsb' 0 16 ++ l

end Sys2Proof.Machine
end

