-- ==== Sys2Proof/Machine/Ops.lean ====
section
/-! DEFINITION. The shared operations on the engine and on the machine. The engine takes no trap (R248 of 60_exceptions.md): the
one operation by which it reports an error is `reject`, and the nearest thing to a return is `acknowledge` (R249). -/

namespace Sys2Proof.Machine

/-- R242: a rejected command or input write sets ERR and has no other effect. -/
def reject (code : BitVec 4) (e : Engine) : Engine := { e with err := code }

/-- R202, R249: the acknowledge clears DONE and ERR; nothing is restored because nothing was saved. -/
def acknowledge (e : Engine) : Engine := { e with done := false, err := errNone }

/-- R201, R272: every element takes its reset value. -/
def clearEngine (_ : Engine) : Engine := Engine.reset

/-- What the acceptance of every multi-stage command sets (R29, R30, R32, R33). -/
def acceptCommand (op : Op) (e : Engine) : Engine := { e with busy := true, done := false, op := op, stage := 0#5 }

/-- What the last stage of every multi-stage command sets (R105, R127). -/
def completeCommand (e : Engine) : Engine := { e with busy := false, done := true }

/-- R223, R246: an input write is rejected with BUSY while a command is in progress. -/
def inputWrite (accepted : Engine → Engine) (e : Engine) : Engine := if e.busy then reject errBusy e else accepted e

/-- R206: an accepted write to KEY_HI. -/
def writeKeyHi (w : Word) (e : Engine) : Engine := { e with key := withHi e.key w, keyHiV := true, ksValid := false }

/-- R207: an accepted write to KEY_LO. -/
def writeKeyLo (w : Word) (e : Engine) : Engine := { e with key := withLo e.key w, keyLoV := true, ksValid := false }

/-- R208: an accepted write to DIN_HI. -/
def writeDinHi (w : Word) (e : Engine) : Engine := { e with din := withHi e.din w, dinHiV := true }

/-- R209: an accepted write to DIN_LO. -/
def writeDinLo (w : Word) (e : Engine) : Engine := { e with din := withLo e.din w, dinLoV := true }

/-- R218: a write to SK_SEL; bits 31:4 are ignored and it is never rejected. -/
def writeSkSel (w : Word) (e : Engine) : Engine := { e with skSel := w.extractLsb' 0 4 }

/-- Apply an operation to the engine and leave the rest of the machine alone. -/
def State.onEngine (s : State) (f : Engine → Engine) : State := { s with engine := f s.engine }

/-- Put the engine's outcome back into the machine. -/
def State.withEngineOutcome (s : State) (o : Host.Outcome Engine Fault Refusal) : Host.Outcome State Fault Refusal :=
  match o with
  | .next e => .next { s with engine := e }
  | .fault x => .fault x
  | .refused x => .refused x

/-- The bus answers the host (log 7). -/
def State.respond (s : State) (x : Response) : State := { s with responses := x :: s.responses }

/-- R57, R241: the bus error response. The engine is unchanged; the host goes on with its handler where it has one (log 3). -/
def State.busErrorAt (s : State) (off : BitVec 6) : State :=
  { s with responses := .busError off :: s.responses, host := s.busErrorHandler.getD s.host }

end Sys2Proof.Machine
end

