-- ==== Sys2Proof/Machine/Primitives.lean ====
section
/-! DEFINITION. The primitives of 43_primitives.md on bit vectors. Their error cases cannot arise here: the widths are in the
types (R165) and a table carries the check of its indexes (R161). The same primitives over lists of bits, with their errors,
are in Machine/BitList.lean. -/

namespace Sys2Proof.Machine

/-- DES bit `i` of `v`, 1 ≤ i ≤ n, DES bit 1 being the most significant (R13(b)). -/
def dbit {n : Nat} (v : BitVec n) (i : Nat) : Bool := v.getLsbD (n - i)

/-- R160: DES bit j of the result is DES bit T[j] of `v`. -/
def permute {n m : Nat} (T : PermTable n m) (v : BitVec n) : BitVec m :=
  BitVec.ofFnBE fun j : Fin m => dbit v T.entries[j]

/-- R162: circular left rotation by `k` positions, `k` taken modulo the width. -/
def rotl {w : Nat} (v : BitVec w) (k : Nat) : BitVec w := v.rotateLeft k

/-- R166: the left half (DES bits 1..w) of a value of 2w bits. -/
def leftHalf {w : Nat} (v : BitVec (w + w)) : BitVec w := v.extractLsb' w w

/-- R166: the right half (DES bits w+1..2w) of a value of 2w bits. -/
def rightHalf {w : Nat} (v : BitVec (w + w)) : BitVec w := v.extractLsb' 0 w

/-- Byte `i` (0..7) of a 64-bit value taken as 8 bytes: big-endian, byte 0 is DES bits 1..8 (R61). -/
def byteOfBlock (v : Block) (i : Fin 8) : BitVec 8 := v.extractLsb' (56 - 8 * i.val) 8

end Sys2Proof.Machine
end

