-- ==== Sys2Proof/Machine/RoundFunction.lean ====
section
/-! DEFINITION. The round function f of 42_round_function.md: combinational, it writes no state and raises no error (R140). -/

namespace Sys2Proof.Machine

/-- R144: the row is the outer bit pair of the chunk, the column its middle four bits. -/
def sboxLookup (S : SBox) (b : BitVec 6) : BitVec 4 :=
  let row : BitVec 2 := b.extractLsb' 5 1 ++ b.extractLsb' 0 1
  let col : BitVec 4 := b.extractLsb' 1 4
  S[row.toFin][col.toFin]

/-- R143: the chunk that goes to S-box i + 1. -/
def chunk (x : Subkey) (i : Fin 8) : BitVec 6 := x.extractLsb' (42 - 6 * i.val) 6

/-- The output of S-box i + 1 for the mixed value `x`. -/
def sboxOut (x : Subkey) (i : Fin 8) : BitVec 4 := sboxLookup sboxes[i] (chunk x i)

/-- R145: the eight outputs, concatenated in S-box order. -/
def substitute (x : Subkey) : Half :=
  sboxOut x 0 ++ sboxOut x 1 ++ sboxOut x 2 ++ sboxOut x 3 ++ sboxOut x 4 ++ sboxOut x 5 ++ sboxOut x 6 ++ sboxOut x 7

/-- R140: f(r, k). Expansion R141, key mixing R142, S-boxes R143 to R145, output permutation R146. -/
def roundFunction (r : Half) (k : Subkey) : Half := permute pTable (substitute (permute eTable r ^^^ k))

end Sys2Proof.Machine
end

