-- ==== Sys2Proof/Machine/BlockTransform.lean ====
section
/-! DEFINITION. The block transform (41_block_transform.md): the stages, the functional layer `transformBlock`, the acceptance of
ENCRYPT and DECRYPT and their engine step. -/

namespace Sys2Proof.Machine

/-- R123: the initial permutation and split. -/
def ipSplit (block : Block) : Half × Half :=
  let t : BitVec (32 + 32) := permute ipTable block
  (leftHalf t, rightHalf t)

/-- R126: round i + 1 uses SK[i + 1] to encrypt and SK[17 - (i + 1)] to decrypt. -/
def selectSubkey (dir : Direction) (ks : Vector Subkey 16) (i : Fin 16) : Subkey :=
  match dir with
  | .encrypt => ks[i]
  | .decrypt => ks[i.rev]

/-- R124: one Feistel round; both halves are written from the values before the round. -/
def feistelRound (k : Subkey) (lr : Half × Half) : Half × Half := (lr.2, lr.1 ^^^ roundFunction lr.2 k)

/-- (L_i, R_i) of R124 and R126, the halves after round i from (L_0, R_0) = `lr`; there is no round after 16. -/
def blockHalvesAfter (dir : Direction) (ks : Vector Subkey 16) (lr : Half × Half) : Nat → Half × Half
  | 0 => lr
  | i + 1 =>
    if h : i < 16 then feistelRound (selectSubkey dir ks ⟨i, h⟩) (blockHalvesAfter dir ks lr i)
    else blockHalvesAfter dir ks lr i

/-- R127: the halves recombined in swapped order, and the final permutation. -/
def ipInvJoin (lr : Half × Half) : Block := permute ipInvTable (lr.2 ++ lr.1)

/-- R130: the block transform. -/
def transformBlock (block : Block) (ks : Vector Subkey 16) (dir : Direction) : Block :=
  ipInvJoin (blockHalvesAfter dir ks (ipSplit block) 16)

/-- R121: the acceptance of ENCRYPT and DECRYPT is `acceptCommand`; R121, R245: the verdict, BUSY first, then the presence of the
block, then the presence of the schedule. -/
def cipherVerdict (op : Op) (e : Engine) : Engine :=
  if e.busy then reject errBusy e
  else if e.dinHiV && e.dinLoV then
    if e.ksValid then acceptCommand op e else reject errNoKeySchedule e
  else reject errInvalidInputLength e

/-- ENCRYPT (R120): what the command does at the CMD write. Its stages are engine steps (`btStep`). -/
def execEncrypt (s : State) : Host.Outcome State Fault Refusal := .next (s.onEngine (cipherVerdict .encrypt))

/-- DECRYPT (R122): what the command does at the CMD write. Its stages are engine steps (`btStep`). -/
def execDecrypt (s : State) : Host.Outcome State Fault Refusal := .next (s.onEngine (cipherVerdict .decrypt))

/-- R125, stage 0. -/
def btStageIp (e : Engine) : Engine :=
  { e with l := (ipSplit e.din).1, r := (ipSplit e.din).2, stage := e.stage + 1#5 }

/-- R125, stage i + 1: one round. -/
def btStageRound (dir : Direction) (i : Fin 16) (e : Engine) : Engine :=
  let lr := feistelRound (selectSubkey dir e.sk i) (e.l, e.r)
  { e with l := lr.1, r := lr.2, stage := e.stage + 1#5 }

/-- R125, R127, stage 17: recombination, final permutation and completion. L, R and OP are kept. -/
def btStageFinal (e : Engine) : Engine :=
  { completeCommand e with dout := ipInvJoin (e.l, e.r), stage := e.stage + 1#5 }

/-- R125: one engine step of ENCRYPT or DECRYPT (BUSY = 1, OP in {2, 3}). -/
def btStep (dir : Direction) (e : Engine) : Host.Outcome Engine Fault Refusal :=
  if e.stage = 0#5 then .next (btStageIp e)
  else if h : e.stage.toNat ≤ 16 then .next (btStageRound dir ⟨e.stage.toNat - 1, by omega⟩ e)
  else if e.stage = 17#5 then .next (btStageFinal e)
  else .fault .stageOutOfRange

end Sys2Proof.Machine
end

