-- ==== Sys2Proof/Machine/Control.lean ====
section
/-! DEFINITION. The control commands NOP, CLEAR and ACK (R200 to R202 of 45_control_and_access.md). None is rejected while
BUSY = 1 (R245, R281). -/

namespace Sys2Proof.Machine

/-- NOP (R200): the state after equals the state before. -/
def execNop (s : State) : Host.Outcome State Fault Refusal := .next s

/-- CLEAR (R201): every element of the engine takes its reset value; a command in progress is aborted. -/
def execClear (s : State) : Host.Outcome State Fault Refusal := .next (s.onEngine clearEngine)

/-- ACK (R202): DONE <- 0, ERR <- 0; a command in progress is not disturbed. -/
def execAck (s : State) : Host.Outcome State Fault Refusal := .next (s.onEngine acknowledge)

end Sys2Proof.Machine
end

