-- ==== Sys2Proof/Machine/KeySchedule.lean ====
section
/-! DEFINITION. The key-schedule generator (40_key_schedule.md): the stages, the functional layer `deriveSubkeys`, the acceptance
of KEYSCHED and its engine step. -/

namespace Sys2Proof.Machine

/-- R102: PC-1 and split. -/
def pc1Split (key : Block) : KeyHalf × KeyHalf :=
  let cd : BitVec (28 + 28) := permute pc1Table key
  (leftHalf cd, rightHalf cd)

/-- R103: both halves rotate left by SHIFTS[s + 1]. -/
def rotateHalves (s : Fin 16) (cd : KeyHalf × KeyHalf) : KeyHalf × KeyHalf := (rotl cd.1 shifts[s], rotl cd.2 shifts[s])

/-- R103: the subkey of the rotated halves. -/
def pc2Subkey (cd : KeyHalf × KeyHalf) : Subkey := permute pc2Table (cd.1 ++ cd.2)

/-- (C_s, D_s) of R102 and R103: the halves after stage s; there is no stage after 16. -/
def keyHalvesAfter (key : Block) : Nat → KeyHalf × KeyHalf
  | 0 => pc1Split key
  | s + 1 => if h : s < 16 then rotateHalves ⟨s, h⟩ (keyHalvesAfter key s) else keyHalvesAfter key s

/-- R108: the sixteen subkeys of a key; K_j stands at index j - 1. -/
def deriveSubkeys (key : Block) : Vector Subkey 16 := Vector.ofFn fun j => pc2Subkey (keyHalvesAfter key (j.val + 1))

/-- R101: the acceptance of KEYSCHED. -/
def acceptKeysched (e : Engine) : Engine := { acceptCommand .keysched e with ksValid := false }

/-- R101, R245: the verdict on KEYSCHED. BUSY is checked before the presence of the key. -/
def keyschedVerdict (e : Engine) : Engine :=
  if e.busy then reject errBusy e
  else if e.keyHiV && e.keyLoV then acceptKeysched e
  else reject errInvalidInputLength e

/-- KEYSCHED (R100): what the command does at the CMD write. Its stages are engine steps (`ksStep`). -/
def execKeysched (s : State) : Host.Outcome State Fault Refusal := .next (s.onEngine keyschedVerdict)

/-- R105: the completion of KEYSCHED, part of stage 16. -/
def completeKeysched (e : Engine) : Engine := { completeCommand e with ksValid := true }

/-- R104, stage 0. -/
def ksStagePc1 (e : Engine) : Engine :=
  { e with c := (pc1Split e.key).1, d := (pc1Split e.key).2, stage := e.stage + 1#5 }

/-- R104, stage s + 1: the rotation, and the subkey from the halves rotated in this very stage. -/
def ksStageRotate (s : Fin 16) (e : Engine) : Engine :=
  let cd := rotateHalves s (e.c, e.d)
  { e with c := cd.1, d := cd.2, sk := e.sk.set s (pc2Subkey cd), stage := e.stage + 1#5 }

/-- R104: one engine step of KEYSCHED (BUSY = 1, OP = 1). -/
def ksStep (e : Engine) : Host.Outcome Engine Fault Refusal :=
  if e.stage = 0#5 then .next (ksStagePc1 e)
  else if h : e.stage.toNat ≤ 16 then
    let e' := ksStageRotate ⟨e.stage.toNat - 1, by omega⟩ e
    .next (if e.stage = 16#5 then completeKeysched e' else e')
  else .fault .stageOutOfRange

end Sys2Proof.Machine
end

