-- ==== Sys2Proof/Machine/Access.lean ====
section
/-! DEFINITION. Bus accesses (R53 to R58 of 20_memory.md) and the write rule of every register (45_control_and_access.md). -/

namespace Sys2Proof.Machine

/-- R245: a write of `w` to CMD. A word that spells no command is rejected before anything else is looked at (R84). -/
def command (w : Word) (s : State) : Host.Outcome State Fault Refusal :=
  match decode w with
  | .ok i => exec i s
  | .error _ => .next (s.onEngine (reject errIllegalCommand))

/-- The write rule of each register (R204, R206 to R209, R212, R214, R217, R218, R221 to R223). -/
def writeReg (r : Reg) (w : Word) (s : State) : Host.Outcome State Fault Refusal :=
  match r with
  | .cmd => command w s
  | .keyHi => .next (s.onEngine (inputWrite (writeKeyHi w)))
  | .keyLo => .next (s.onEngine (inputWrite (writeKeyLo w)))
  | .dinHi => .next (s.onEngine (inputWrite (writeDinHi w)))
  | .dinLo => .next (s.onEngine (inputWrite (writeDinLo w)))
  | .skSel => .next (s.onEngine (writeSkSel w))
  | .status | .doutHi | .doutLo | .dbgL | .dbgR | .dbgC | .dbgD | .skHi | .skLo | .id => .next s

/-- One access by the host (R55 to R57). A well-formed write completes normally on the bus even when the engine rejects it
(R242). An address outside the window is not the engine's (R51, log 4). -/
def busAccess (a : Access) (s : State) : Host.Outcome State Fault Refusal :=
  match a.port with
  | .outside addr => .refused (.outsideWindow addr)
  | .window off =>
    if alignedWord off a.size then
      match a.kind with
      | .read => .next (s.respond (.data (readReg (regAt off) s.engine)))
      | .write w => writeReg (regAt off) w (s.respond .written)
    else .next (s.busErrorAt off)

end Sys2Proof.Machine
end

