-- ==== Sys2Proof/Machine/Turns.lean ====
section
/-! DEFINITION. The agents and their turns (R8, R9 of 00_scope.md; R247 of 60_exceptions.md). -/

namespace Sys2Proof.Machine

/-- One engine step, for an engine with BUSY = 1 (R104, R125); OP says of which command. -/
def engineStep (e : Engine) : Host.Outcome Engine Fault Refusal :=
  match e.op with
  | .none => .fault .noCommandInProgress
  | .keysched => ksStep e
  | .encrypt => btStep .encrypt e
  | .decrypt => btStep .decrypt e

/-- An engine that has not been reset since power-up: its elements stay unspecified, whatever happens (R271, log 6). -/
def unspecifiedTurn (s : State) : State :=
  { s with engine := Config.unspecifiedEngine s.powerUps, ready := false, powerUps := s.powerUps + 1 }

/-- The engine's turn: a step exactly when BUSY = 1 (R32); otherwise nothing changes (R258). -/
def engineTurn (s : State) : Host.Outcome State Fault Refusal :=
  if s.ready then
    if s.engine.busy then s.withEngineOutcome (engineStep s.engine) else .next s
  else .next (unspecifiedTurn s)

/-- One pass of the polling loop `wait` (R87): a read of STATUS, and the loop again while bit 0 is 1. -/
def waitPass (s : State) (rest : List HostOp) : State :=
  { s with
    responses := .data (readReg .status s.engine) :: s.responses
    host := if (readReg .status s.engine).getLsbD 0 then .wait :: rest else rest }

/-- The host's turn: its next operation, if it has one. No access is admitted before the first reset (R271). -/
def hostTurn (s : State) : Host.Outcome State Fault Refusal :=
  match s.host with
  | [] => .next s
  | .halt :: _ => .next { s with host := [] }
  | .wait :: rest => if s.ready then .next (waitPass s rest) else .refused .accessBeforeReset
  | .access a :: rest => if s.ready then busAccess a { s with host := rest } else .refused .accessBeforeReset

/-- The external reset (R270): every element at its reset value, whatever was in progress. -/
def resetTurn (s : State) : State := { s with engine := Engine.reset, ready := true }

/-- The turn of one agent. -/
def turnOf (a : Agent) (s : State) : Host.Outcome State Fault Refusal :=
  match a with
  | .host => hostTurn s
  | .engine => engineTurn s
  | .reset => .next (resetTurn s)
  | .powerCycle => .next (unspecifiedTurn s)

/-- Who moves when `turns` is empty: the engine while BUSY = 1 (weakly fair, R9), else the host (log 1). -/
def defaultAgent (s : State) : Agent := if s.ready && s.engine.busy then .engine else .host

/-- The agent that moves at the next step (log 1). -/
def chosenAgent (s : State) : Agent := s.turns.head?.getD (defaultAgent s)

/-- The next event: the oldest turn listed, or the default agent's (R247). -/
def nextTurn (s : State) : Host.Outcome State Fault Refusal :=
  match s.turns with
  | [] => turnOf (defaultAgent s) s
  | a :: rest => turnOf a { s with turns := rest }

/-- The last stage count of a command (R11, R290): 17 for KEYSCHED, 18 for ENCRYPT and DECRYPT. -/
def stageCount : Op → Nat
  | .none => 0
  | .keysched => 17
  | .encrypt => 18
  | .decrypt => 18

/-- The latency of a command in clock cycles (R290). Nothing depends on it (log 5). -/
def latencyCycles (op : Op) : Nat := stageCount op * Config.cyclesPerStage

end Sys2Proof.Machine
end

