-- ==== Sys2Proof/Machine/Step.lean ====
section
/-! DEFINITION. One step of the machine: one event of one agent, atomic (R8, R247). -/

namespace Sys2Proof.Machine

/-- One step. -/
def step (s : State) : Host.Outcome State Fault Refusal := nextTurn s

/-- The engine fetches no instruction (R38, R70): a command runs when the host writes it to CMD. So the word is placed at the
head of the host's operations, the host has the next turn, and the engine counts as reset (log 9). -/
def State.withFetchWord (s : State) (nbits w : Nat) : State :=
  { s with host := wr .cmd (tableWord nbits w) :: s.host, turns := .host :: s.turns, ready := true }

end Sys2Proof.Machine
end

