-- ==== Sys2Proof/Machine/Cipher.lean ====
section
/-! DEFINITION. The two ends of the functional layer: the cipher as a function of key and block (R130 of 41_block_transform.md). -/

namespace Sys2Proof.Machine

/-- encrypt(k, b) of R130. -/
def encryptBlock (k b : Block) : Block := transformBlock b (deriveSubkeys k) .encrypt

/-- decrypt(k, b) of R130. -/
def decryptBlock (k b : Block) : Block := transformBlock b (deriveSubkeys k) .decrypt

end Sys2Proof.Machine
end

