-- ==== Sys2Proof/Machine/BitList.lean ====
section
/-! DEFINITION. The functional layer over lists of bits, DES bit 1 first, with the source's errors (R160, R162, R164, R168 of
43_primitives.md, R259 of 60_exceptions.md; D31). A wrong length or an index out of range is a fault, never a value; no step of
the engine uses this layer (log 11). -/

namespace Sys2Proof.Machine

/-- The bits of a value, DES bit 1 first (R13(b)). -/
def bitsOf {n : Nat} (v : BitVec n) : List Bool := List.ofFn fun i : Fin n => dbit v (i.val + 1)

/-- Go on with the value of a call that gives one. -/
def andThen {α β : Type} (o : Host.Outcome α Fault Refusal) (k : α → Host.Outcome β Fault Refusal) :
    Host.Outcome β Fault Refusal :=
  match o with
  | .next a => k a
  | .fault x => .fault x
  | .refused x => .refused x

/-- R160 from table place `j` on: the first entry out of range is reported with its place. -/
def permuteBitsFrom (v : List Bool) : Nat → List Nat → Host.Outcome (List Bool) Fault Refusal
  | _, [] => .next []
  | j, t :: ts =>
    if h : 1 ≤ t ∧ t ≤ v.length then
      andThen (permuteBitsFrom v (j + 1) ts) fun out => .next (v[t - 1] :: out)
    else .fault (.indexOutOfRange j t)

/-- R160: permute, with IndexOutOfRange. -/
def permuteBits (T : List Nat) (v : List Bool) : Host.Outcome (List Bool) Fault Refusal := permuteBitsFrom v 1 T

/-- R162: rotateLeft, the amount a natural number taken modulo the length (93 I21). -/
def rotateLeftBits (v : List Bool) (n : Nat) : List Bool := v.drop (n % v.length) ++ v.take (n % v.length)

/-- R164: xor, with LengthMismatch. -/
def xorBits (a b : List Bool) : Host.Outcome (List Bool) Fault Refusal :=
  if a.length = b.length then .next (List.zipWith xor a b) else .fault (.lengthMismatch a.length b.length)

/-- R143 to R145: six bits to each S-box in turn, four bits from it. -/
def substituteBits : List SBox → List Bool → List Bool
  | S :: Ss, b1 :: b2 :: b3 :: b4 :: b5 :: b6 :: rest =>
    let row : BitVec 2 := BitVec.ofBool b1 ++ BitVec.ofBool b6
    let col : BitVec 4 := BitVec.ofBool b2 ++ BitVec.ofBool b3 ++ BitVec.ofBool b4 ++ BitVec.ofBool b5
    bitsOf S[row.toFin][col.toFin] ++ substituteBits Ss rest
  | _, _ => []

/-- R140 over lists. -/
def roundFunctionBits (r k : List Bool) : Host.Outcome (List Bool) Fault Refusal :=
  andThen (permuteBits eTable.entries.toList r) fun e =>
  andThen (xorBits e k) fun x =>
  permuteBits pTable.entries.toList (substituteBits sboxes.toList x)

/-- The loop of R108 over the shifts still to come. -/
def subkeyLoopBits : List Nat → List Bool → List Bool → Host.Outcome (List (List Bool)) Fault Refusal
  | [], _, _ => .next []
  | n :: ns, c, d =>
    andThen (permuteBits pc2Table.entries.toList (rotateLeftBits c n ++ rotateLeftBits d n)) fun k =>
    andThen (subkeyLoopBits ns (rotateLeftBits c n) (rotateLeftBits d n)) fun ks =>
    .next (k :: ks)

/-- R108 over lists: a key whose length is not 64 fails with InvalidInputLength before any other step (R168). -/
def deriveSubkeysBits (key : List Bool) : Host.Outcome (List (List Bool)) Fault Refusal :=
  if key.length = 64 then
    andThen (permuteBits pc1Table.entries.toList key) fun t =>
    subkeyLoopBits shifts.toList (t.take 28) (t.drop 28)
  else .fault (.invalidInputLength key.length)

/-- The rounds of R130 with the subkeys in the order they are used, then R127. -/
def roundLoopBits : List (List Bool) → List Bool → List Bool → Host.Outcome (List Bool) Fault Refusal
  | [], l, r => permuteBits ipInvTable.entries.toList (r ++ l)
  | k :: ks, l, r =>
    andThen (roundFunctionBits r k) fun f =>
    andThen (xorBits l f) fun r' =>
    roundLoopBits ks r r'

/-- R130 over lists: a block whose length is not 64 fails with InvalidInputLength before any other step; a subkey sequence of
other than 16 elements of 48 bits is refused (R168, 93 I20). -/
def transformBlockBits (block : List Bool) (ks : List (List Bool)) (dir : Direction) :
    Host.Outcome (List Bool) Fault Refusal :=
  if block.length = 64 then
    if ks.length = 16 ∧ ks.all (fun k => k.length == 48) = true then
      andThen (permuteBits ipTable.entries.toList block) fun t =>
      roundLoopBits (match dir with | .encrypt => ks | .decrypt => ks.reverse) (t.take 32) (t.drop 32)
    else .refused .subkeySequence
  else .fault (.invalidInputLength block.length)

end Sys2Proof.Machine
end

