-- ==== Sys2Proof/Safety.lean ====
section
/-! DEFINITION. What claims about runs are stated in: the invariants of R43 of 10_state.md, the progress of the command under way
(R103, R104, R124, R125), and what counts as a safe run. -/

namespace Sys2Proof.Machine

/-- OP names a block transform, with this direction (R30). -/
def opDirection : Op → Option Direction
  | .encrypt => some .encrypt
  | .decrypt => some .decrypt
  | .none | .keysched => none

/-- R43, clause by clause. -/
structure Engine.StatusInv (e : Engine) : Prop where
  /-- (a) -/
  busy_op : e.busy = true → e.op ≠ .none
  /-- (b) -/
  busy_keysched_stage : e.busy = true → e.op = .keysched → e.stage.toNat ≤ 16
  /-- (b) -/
  busy_cipher_stage : e.busy = true → e.op = .encrypt ∨ e.op = .decrypt → e.stage.toNat ≤ 17
  /-- (c) -/
  idle_keysched_stage : e.busy = false → e.op = .keysched → e.stage = 17#5
  /-- (c) -/
  idle_cipher_stage : e.busy = false → e.op = .encrypt ∨ e.op = .decrypt → e.stage = 18#5
  /-- (c) -/
  no_op : e.op = .none → e.busy = false ∧ e.stage = 0#5
  /-- (d) -/
  valid_schedule_idle : e.ksValid = true → e.busy = false ∨ e.op = .encrypt ∨ e.op = .decrypt
  /-- (d) -/
  valid_schedule_key : e.ksValid = true → e.keyHiV = true ∧ e.keyLoV = true
  /-- (e) -/
  valid_schedule : e.ksValid = true → e.sk = deriveSubkeys e.key
  /-- (f) -/
  done_idle : e.done = true → e.busy = false

/-- How far the command under way has come: what makes R43(e) and the results of R109 and R131 hold stage by stage. -/
structure Engine.ProgressInv (e : Engine) : Prop where
  /-- an accepted KEYSCHED had both halves of KEY (R101), and they stay (R280) -/
  keysched_inputs : e.busy = true → e.op = .keysched → e.keyHiV = true ∧ e.keyLoV = true
  /-- after stage s the halves are C_s, D_s (R102, R103) -/
  keysched_halves : e.busy = true → e.op = .keysched → e.stage ≠ 0#5 →
    (e.c, e.d) = keyHalvesAfter e.key (e.stage.toNat - 1)
  /-- the subkeys of the stages done are in the store (R106(d)) -/
  keysched_subkeys : e.busy = true → e.op = .keysched → ∀ j : Fin 16, j.val + 1 < e.stage.toNat →
    e.sk[j] = (deriveSubkeys e.key)[j]
  /-- an accepted ENCRYPT or DECRYPT had a block and a schedule (R121), and they stay (R280, R134) -/
  cipher_inputs : e.busy = true → e.op = .encrypt ∨ e.op = .decrypt →
    e.dinHiV = true ∧ e.dinLoV = true ∧ e.ksValid = true
  /-- after stage i the halves are L_i, R_i (R123, R124) -/
  cipher_halves : ∀ dir, e.busy = true → opDirection e.op = some dir → e.stage ≠ 0#5 →
    (e.l, e.r) = blockHalvesAfter dir e.sk (ipSplit e.din) (e.stage.toNat - 1)
  /-- ERR holds only codes that the engine raises (R240, R244) -/
  err_code : e.err = errNone ∨ e.err = errInvalidInputLength ∨ e.err = errNoKeySchedule ∨ e.err = errBusy ∨
    e.err = errIllegalCommand

/-- The invariant of the machine. Before the first reset the engine is unspecified (R271) and nothing is claimed of it. -/
def State.Inv (s : State) : Prop := s.ready = true → s.engine.StatusInv ∧ s.engine.ProgressInv

/-- A safe run: no number of steps ends in a fault. (A refusal is the model's own stop: an access outside the window, or before
the first reset.) -/
def State.Safe (s : State) : Prop := ∀ (n : Nat) (x : Fault), Host.Core.run Sys2Proof.core n s ≠ .fault x

end Sys2Proof.Machine
end

