-- ==== Sys2Proof/WellFormed.lean ====
section
/-! DEFINITION. Well-formed command words and instructions. A command word spells a command when its reserved field is 0 and
its opcode is at most 5 (R80, R84 of 30_encoding.md). An instruction has no operand (R83), so every one is well formed. -/

namespace Sys2Proof

/-- The check on the field RSVD, bits 31:4 (R80): it must be 0. -/
def CommandWord.reservedClear (w : Word) : Bool := w.toNat / 16 == 0

/-- The check on the field OPC, bits 3:0 (R80): 0x6 to 0xF are reserved (R82). -/
def CommandWord.opcodeDefined (w : Word) : Bool := w.toNat % 16 ≤ 5

/-- A word that spells a command (R84). -/
def CommandWord.wf (w : Word) : Bool := CommandWord.reservedClear w && CommandWord.opcodeDefined w

/-- No command has an operand field (R83): there is nothing to check. -/
def Instr.wf (_ : Instr) : Bool := true

end Sys2Proof
end

