-- ==== Sys2Proof/Certificates/Slice0/Obligations.lean ====
section
/-! DEFINITION. The statements for the provers. Each docstring names the rules of spec/ it formalises; a statement that rests on a
choice of the model names the log entry. -/

open Sys2Proof Sys2Proof.Machine

/- Encoding. -/

/-- Words written out from the encodings of R82 and of Part 7 of 95_test_vectors.md: the six commands, reserved opcodes, reserved
bits. -/
def Obligations.CommandWordsDecode : Prop :=
  decode 0x00000000#32 = .ok .nop ∧ decode 0x00000001#32 = .ok .keysched ∧ decode 0x00000002#32 = .ok .encrypt ∧
  decode 0x00000003#32 = .ok .decrypt ∧ decode 0x00000004#32 = .ok .clear ∧ decode 0x00000005#32 = .ok .ack ∧
  decode 0x00000006#32 = .error .reservedOpcode ∧ decode 0x0000000F#32 = .error .reservedOpcode ∧
  decode 0x00000010#32 = .error .reservedBits ∧ decode 0x80000004#32 = .error .reservedBits

/-- R82, R84, R85: decoding and encoding agree in both directions on all 2^32 words, and a word spells no command exactly when
RSVD is not 0 or OPC is above 5. -/
def Obligations.DecodeEncodeAgree : Prop :=
  ∀ w : Word,
    (∀ i : Instr, (i.wf = true ∧ decode w = .ok i) ↔ w = encode i) ∧
    ((∃ x, decode w = .error x) ↔ (w.toNat / 16 ≠ 0 ∨ 5 < w.toNat % 16))

/- A step, and the commands. -/

/-- R85: when the host's next operation writes a word that decodes to a command, the step is `exec` of that command, in the state
in which the operation is consumed and the bus has answered that the write completed. The turn is the host's when `turns` says so,
or when it lists nothing and the engine is idle (log 1). `withFetchWord` builds such a state (log 9). -/
def Obligations.StepRunsWrittenCommand : Prop :=
  ∀ (s : State) (w : Word) (i : Instr) (rest : List HostOp), decode w = .ok i →
    (∀ ts, s.ready = true → s.host = wr .cmd w :: rest → s.turns = .host :: ts →
      step s = exec i { s with turns := ts, host := rest, responses := .written :: s.responses }) ∧
    (s.ready = true → s.host = wr .cmd w :: rest → s.turns = [] → s.engine.busy = false →
      step s = exec i { s with host := rest, responses := .written :: s.responses }) ∧
    step (s.withFetchWord 32 w.toNat) = exec i { s with ready := true, responses := .written :: s.responses }

/-- R84: a word with RSVD ≠ 0 or OPC in 0x6..0xF sets ERR to 6 and has no other effect on the engine, busy or not; the bus write
completes (R242). -/
def Obligations.IllegalWordSetsErrOnly : Prop :=
  ∀ (s : State) (w : Word) (rest : List HostOp) (ts : List Agent),
    s.ready = true → s.host = wr .cmd w :: rest → s.turns = .host :: ts → w.toNat / 16 ≠ 0 ∨ 5 < w.toNat % 16 →
    step s = .next { s with
      turns := ts
      host := rest
      responses := .written :: s.responses
      engine := { s.engine with err := 6#4 } }

/-- R245: the verdict on a write of `w` to CMD, line by line, with the acceptances of R101 and R121; a malformed write to the
register comes before all of it (R57). -/
def Obligations.CommandVerdictInOrder : Prop :=
  ∀ (s : State) (off : BitVec 6) (size : Nat) (w : Word), off.extractLsb' 2 4 = 0#4 →
    busAccess { port := .window off, size := size, kind := .write w } s =
      if size ≠ 4 ∨ off.extractLsb' 0 2 ≠ 0#2 then .next (s.busErrorAt off)
      else .next { s with
        responses := .written :: s.responses
        engine :=
          if w.extractLsb' 4 28 ≠ 0#28 ∨ 5 < (w.extractLsb' 0 4).toNat then { s.engine with err := 6#4 }
          else if w.extractLsb' 0 4 = 0#4 then s.engine
          else if w.extractLsb' 0 4 = 4#4 then Engine.reset
          else if w.extractLsb' 0 4 = 5#4 then { s.engine with done := false, err := 0#4 }
          else if s.engine.busy = true then { s.engine with err := 5#4 }
          else if w.extractLsb' 0 4 = 1#4 then
            if s.engine.keyHiV = false ∨ s.engine.keyLoV = false then { s.engine with err := 1#4 }
            else { s.engine with busy := true, done := false, op := .keysched, stage := 0#5, ksValid := false }
          else if s.engine.dinHiV = false ∨ s.engine.dinLoV = false then { s.engine with err := 1#4 }
          else if s.engine.ksValid = false then { s.engine with err := 4#4 }
          else { s.engine with
            busy := true
            done := false
            op := if w.extractLsb' 0 4 = 2#4 then .encrypt else .decrypt
            stage := 0#5 } }

/-- R200: NOP, word 0, leaves the state as it is, whether or not the engine is busy. -/
def Obligations.NopChangesNothing : Prop :=
  decode 0x00000000#32 = .ok .nop ∧ ∀ s : State, exec .nop s = .next s

/-- R201: CLEAR, word 4, puts every element of the engine at 0, busy or not; the command in progress then performs no further
stage, and KEYSCHED, ENCRYPT and DECRYPT are rejected with INVALID_INPUT_LENGTH until their inputs are written again. -/
def Obligations.ClearResetsEveryElement : Prop :=
  decode 0x00000004#32 = .ok .clear ∧
  ∀ s : State, ∃ t : State, exec .clear s = .next t ∧
    t = { s with engine := {
      key := 0#64, keyHiV := false, keyLoV := false, din := 0#64, dinHiV := false, dinLoV := false, dout := 0#64,
      c := 0#28, d := 0#28, l := 0#32, r := 0#32, sk := Vector.replicate 16 0#48, ksValid := false, stage := 0#5,
      op := .none, busy := false, done := false, err := 0#4, skSel := 0#4 } } ∧
    (t.ready = true → engineTurn t = .next t) ∧ readReg .status t.engine = 0#32 ∧
    readReg .doutHi t.engine = 0#32 ∧ readReg .doutLo t.engine = 0#32 ∧
    ∀ i, i = .keysched ∨ i = .encrypt ∨ i = .decrypt →
      exec i t = .next { t with engine := { t.engine with err := 1#4 } }

/-- R202: ACK, word 5, sets DONE and ERR to 0, busy or not, and changes nothing else; done_o is then 0. -/
def Obligations.AckClearsDoneAndErr : Prop :=
  decode 0x00000005#32 = .ok .ack ∧
  ∀ s : State, ∃ t : State, exec .ack s = .next t ∧
    t = { s with engine := { s.engine with done := false, err := 0#4 } } ∧ doneO t = false

/-- R101: the acceptance of KEYSCHED, with what it writes and that it writes nothing else; and its one rejection. -/
def Obligations.KeyschedAcceptance : Prop :=
  ∀ s : State, s.engine.busy = false →
    (s.engine.keyHiV = true → s.engine.keyLoV = true →
      exec .keysched s = .next { s with
        engine := { s.engine with busy := true, done := false, op := .keysched, stage := 0#5, ksValid := false } }) ∧
    (s.engine.keyHiV = false ∨ s.engine.keyLoV = false →
      exec .keysched s = .next { s with engine := { s.engine with err := 1#4 } })

/-- R121: the acceptance of ENCRYPT and DECRYPT, with what it writes and that it writes nothing else; and its two rejections in
their order. -/
def Obligations.CipherAcceptance : Prop :=
  ∀ (s : State) (i : Instr) (op : Op), (i = .encrypt ∧ op = .encrypt) ∨ (i = .decrypt ∧ op = .decrypt) →
    s.engine.busy = false →
    (s.engine.dinHiV = true → s.engine.dinLoV = true → s.engine.ksValid = true →
      exec i s = .next { s with engine := { s.engine with busy := true, done := false, op := op, stage := 0#5 } }) ∧
    (s.engine.dinHiV = false ∨ s.engine.dinLoV = false →
      exec i s = .next { s with engine := { s.engine with err := 1#4 } }) ∧
    (s.engine.dinHiV = true → s.engine.dinLoV = true → s.engine.ksValid = false →
      exec i s = .next { s with engine := { s.engine with err := 4#4 } })

/-- R281: while BUSY = 1 the multi-stage commands are rejected with BUSY, and NOP, ACK, CLEAR and SK_SEL writes are not. -/
def Obligations.BusyRejectsMultiStageCommands : Prop :=
  ∀ s : State, s.engine.busy = true →
    (∀ i, i = .keysched ∨ i = .encrypt ∨ i = .decrypt →
      exec i s = .next { s with engine := { s.engine with err := 5#4 } }) ∧
    exec .nop s = .next s ∧ exec .ack s = .next { s with engine := { s.engine with done := false, err := 0#4 } } ∧
    exec .clear s = .next { s with engine := Engine.reset } ∧
    ∀ w : Word, writeReg .skSel w s = .next { s with engine := { s.engine with skSel := w.extractLsb' 0 4 } }

/-- The frame of the six commands: what a command leaves unchanged, accepted or rejected (R101, R121, R134, R200, R202, R242).
CLEAR alone writes the data registers; ENCRYPT and DECRYPT keep KS_VALID; ACK and NOP keep BUSY, OP and STAGE. The model's own
fields are never changed by a command. -/
def Obligations.CommandFrame : Prop :=
  ∀ (i : Instr) (s t : State), exec i s = .next t →
    (t.ready = s.ready ∧ t.turns = s.turns ∧ t.host = s.host ∧ t.busErrorHandler = s.busErrorHandler ∧
      t.responses = s.responses ∧ t.powerUps = s.powerUps) ∧
    (i ≠ .clear →
      t.engine.key = s.engine.key ∧ t.engine.keyHiV = s.engine.keyHiV ∧ t.engine.keyLoV = s.engine.keyLoV ∧
      t.engine.din = s.engine.din ∧ t.engine.dinHiV = s.engine.dinHiV ∧ t.engine.dinLoV = s.engine.dinLoV ∧
      t.engine.dout = s.engine.dout ∧ t.engine.c = s.engine.c ∧ t.engine.d = s.engine.d ∧ t.engine.l = s.engine.l ∧
      t.engine.r = s.engine.r ∧ t.engine.sk = s.engine.sk ∧ t.engine.skSel = s.engine.skSel) ∧
    (i ≠ .clear → i ≠ .keysched → t.engine.ksValid = s.engine.ksValid) ∧
    (i = .nop ∨ i = .ack → t.engine.busy = s.engine.busy ∧ t.engine.op = s.engine.op ∧ t.engine.stage = s.engine.stage) ∧
    (i = .nop → t.engine.done = s.engine.done ∧ t.engine.err = s.engine.err) ∧
    (i ≠ .clear → t.engine.err ≠ s.engine.err → i ≠ .ack →
      t.engine.busy = s.engine.busy ∧ t.engine.done = s.engine.done ∧ t.engine.op = s.engine.op ∧
      t.engine.stage = s.engine.stage ∧ t.engine.ksValid = s.engine.ksValid)

/- Engine steps. -/

/-- R104, R105: one engine step of KEYSCHED: stage 0 is PC-1 and split, stage j + 1 rotates both halves by SHIFTS[j + 1] and
stores the subkey of the rotated halves, stage 16 completes. Everything else keeps its value. -/
def Obligations.KeyschedEngineStep : Prop :=
  ∀ (s : State) (ts : List Agent),
    s.ready = true → s.turns = .engine :: ts → s.engine.busy = true → s.engine.op = .keysched →
    (s.engine.stage = 0#5 →
      step s = .next { s with
        turns := ts
        engine := { s.engine with
          c := (permute pc1Table s.engine.key).extractLsb' 28 28
          d := (permute pc1Table s.engine.key).extractLsb' 0 28
          stage := 1#5 } }) ∧
    (∀ j : Fin 16, s.engine.stage.toNat = j.val + 1 →
      ∃ t : State, step s = .next t ∧ (j = 15 → doneO t = true) ∧
        t = { s with
          turns := ts
          engine := { s.engine with
            c := rotl s.engine.c shifts[j]
            d := rotl s.engine.d shifts[j]
            sk := s.engine.sk.set j (permute pc2Table (rotl s.engine.c shifts[j] ++ rotl s.engine.d shifts[j]))
            stage := BitVec.ofNat 5 (j.val + 2)
            busy := decide (j ≠ 15)
            done := if j = 15 then true else s.engine.done
            ksValid := if j = 15 then true else s.engine.ksValid } })

/-- R125, R126, R127: one engine step of ENCRYPT or DECRYPT: stage 0 is IP and split, stage i + 1 is a round with SK[i + 1] or
SK[17 - (i + 1)], stage 17 recombines, permutes and completes. Everything else keeps its value. -/
def Obligations.CipherEngineStep : Prop :=
  ∀ (s : State) (ts : List Agent) (dir : Direction),
    s.ready = true → s.turns = .engine :: ts → s.engine.busy = true → opDirection s.engine.op = some dir →
    (s.engine.stage = 0#5 →
      step s = .next { s with
        turns := ts
        engine := { s.engine with
          l := (permute ipTable s.engine.din).extractLsb' 32 32
          r := (permute ipTable s.engine.din).extractLsb' 0 32
          stage := 1#5 } }) ∧
    (∀ i : Fin 16, s.engine.stage.toNat = i.val + 1 →
      step s = .next { s with
        turns := ts
        engine := { s.engine with
          l := s.engine.r
          r := s.engine.l ^^^ roundFunction s.engine.r
            (if dir = .encrypt then s.engine.sk[i.val] else s.engine.sk[15 - i.val])
          stage := BitVec.ofNat 5 (i.val + 2) } }) ∧
    (s.engine.stage = 17#5 →
      ∃ t : State, step s = .next t ∧ doneO t = true ∧
        t = { s with
          turns := ts
          engine := { s.engine with
            dout := permute ipInvTable (s.engine.r ++ s.engine.l)
            busy := false
            done := true
            stage := 18#5 } })

/-- R32, R258: an engine turn with BUSY = 0 changes nothing but the turn consumed; with no turn and no host operation listed and
BUSY = 0, a step changes nothing at all (log 1). -/
def Obligations.IdleEngineChangesNothing : Prop :=
  ∀ s : State, s.ready = true → s.engine.busy = false →
    (∀ ts, s.turns = .engine :: ts → step s = .next { s with turns := ts }) ∧
    (s.turns = [] → s.host = [] → step s = .next s)

/-- R109, R110: after an accepted KEYSCHED, the 17 steps the engine takes when no other turn is listed (log 1) leave
SK = deriveSubkeys(KEY), C16 = C0 and D16 = D0, with the command complete, and change nothing else. -/
def Obligations.KeyschedRunDerivesSubkeys : Prop :=
  ∀ s : State, s.ready = true → s.turns = [] → s.engine.busy = false → s.engine.keyHiV = true → s.engine.keyLoV = true →
    ∃ t : State, exec .keysched s = .next t ∧
      Sys2Proof.core.run 17 t = .next { s with
        engine := { s.engine with
          c := (pc1Split s.engine.key).1
          d := (pc1Split s.engine.key).2
          sk := deriveSubkeys s.engine.key
          ksValid := true
          stage := 17#5
          op := .keysched
          busy := false
          done := true } }

/-- R131: after an accepted ENCRYPT (DECRYPT), the 18 steps the engine takes when no other turn is listed (log 1) leave
DOUT = transformBlock(DIN, SK, Encrypt (Decrypt)), with the command complete, and change nothing else but L and R. -/
def Obligations.CipherRunTransformsBlock : Prop :=
  ∀ (s : State) (i : Instr) (op : Op) (dir : Direction),
    (i = .encrypt ∧ op = .encrypt ∧ dir = .encrypt) ∨ (i = .decrypt ∧ op = .decrypt ∧ dir = .decrypt) →
    s.ready = true → s.turns = [] → s.engine.busy = false →
    s.engine.dinHiV = true → s.engine.dinLoV = true → s.engine.ksValid = true →
    ∃ t : State, exec i s = .next t ∧
      Sys2Proof.core.run 18 t = .next { s with
        engine := { s.engine with
          l := (blockHalvesAfter dir s.engine.sk (ipSplit s.engine.din) 16).1
          r := (blockHalvesAfter dir s.engine.sk (ipSplit s.engine.din) 16).2
          dout := transformBlock s.engine.din s.engine.sk dir
          stage := 18#5
          op := op
          busy := false
          done := true } }

/- Invariants and whole-machine rules. -/

/-- The invariant of Safety.lean holds right after reset. -/
def Obligations.InvariantAtReset : Prop := State.reset.Inv

/-- Every step keeps the invariant: R43 (a) to (f), the progress of the command under way, and the error codes of R240. It holds
for every agent's turn, loss of power and reset included. -/
def Obligations.StepKeepsInvariant : Prop :=
  ∀ s t : State, s.Inv → step s = .next t → t.Inv

/-- R43: clauses (a) to (f) hold in every state reached from a reset engine, whatever the host does and however its accesses,
engine steps, resets and losses of power interleave. -/
def Obligations.StatusInvariantOfReachableStates : Prop :=
  ∀ (s t : State) (n : Nat), s.engine = Engine.reset → s.ready = true → Sys2Proof.core.run n s = .next t → t.ready = true →
    (t.engine.busy = true → t.engine.op = .keysched ∨ t.engine.op = .encrypt ∨ t.engine.op = .decrypt) ∧
    (t.engine.busy = true → t.engine.op = .keysched → t.engine.stage.toNat ≤ 16) ∧
    (t.engine.busy = true → t.engine.op = .encrypt ∨ t.engine.op = .decrypt → t.engine.stage.toNat ≤ 17) ∧
    (t.engine.busy = false → t.engine.op = .keysched → t.engine.stage = 17#5) ∧
    (t.engine.busy = false → t.engine.op = .encrypt ∨ t.engine.op = .decrypt → t.engine.stage = 18#5) ∧
    (t.engine.op = .none → t.engine.busy = false ∧ t.engine.stage = 0#5) ∧
    (t.engine.ksValid = true → t.engine.busy = false ∨ t.engine.op = .encrypt ∨ t.engine.op = .decrypt) ∧
    (t.engine.ksValid = true → t.engine.keyHiV = true ∧ t.engine.keyLoV = true) ∧
    (t.engine.ksValid = true → t.engine.sk = deriveSubkeys t.engine.key) ∧
    (t.engine.done = true → t.engine.busy = false)

/-- From a state that meets the invariant no run ends in a fault: the two faults of the engine step are unreachable (log 8). -/
def Obligations.InvariantStatesAreSafe : Prop := ∀ s : State, s.Inv → s.Safe

/-- The result of a command in every interleaving: whichever step completes a command from a state that meets the invariant,
KEYSCHED leaves SK = deriveSubkeys(KEY) and C16 = C0, D16 = D0 (R109, R110), ENCRYPT leaves DOUT = encrypt(KEY, DIN) and DECRYPT
DOUT = decrypt(KEY, DIN) (R131). -/
def Obligations.CompletionGivesTheResult : Prop :=
  ∀ s t : State, s.Inv → s.ready = true → s.engine.busy = true → step s = .next t → t.ready = true →
    t.engine.busy = false → t.engine.done = true →
    (s.engine.op = .keysched →
      t.engine.sk = deriveSubkeys s.engine.key ∧ t.engine.ksValid = true ∧ (t.engine.c, t.engine.d) = pc1Split s.engine.key) ∧
    (s.engine.op = .encrypt → t.engine.dout = encryptBlock s.engine.key s.engine.din) ∧
    (s.engine.op = .decrypt → t.engine.dout = decryptBlock s.engine.key s.engine.din)

/-- R9, R290: a command under way completes after exactly its remaining stages when no other turn is listed (log 1), and not
before. -/
def Obligations.CommandsCompleteInBoundedSteps : Prop :=
  ∀ s : State, s.Inv → s.ready = true → s.engine.busy = true → s.turns = [] →
    (∃ t : State, Sys2Proof.core.run (stageCount s.engine.op - s.engine.stage.toNat) s = .next t ∧
      t.engine.busy = false ∧ t.engine.done = true) ∧
    ∀ m, m < stageCount s.engine.op - s.engine.stage.toNat →
      ∃ u : State, Sys2Proof.core.run m s = .next u ∧ u.engine.busy = true

/-- R243: which operations can set which codes. A CMD write leaves ERR, clears it, or sets 1, 4, 5 or 6; an input write leaves it
or sets 5; a write to another register, an engine step and a reset set no code other than 0, and no read does. -/
def Obligations.ErrorCodesByOperation : Prop :=
  (∀ (s t : State) (w : Word), writeReg .cmd w s = .next t →
    t.engine.err = s.engine.err ∨ t.engine.err ∈ [0#4, 1#4, 4#4, 5#4, 6#4]) ∧
  (∀ (s t : State) (r : Reg) (w : Word), r ∈ [Reg.keyHi, .keyLo, .dinHi, .dinLo] → writeReg r w s = .next t →
    t.engine.err = s.engine.err ∨ t.engine.err = 5#4) ∧
  (∀ (s t : State) (r : Reg) (w : Word), r ∉ [Reg.cmd, .keyHi, .keyLo, .dinHi, .dinLo] → writeReg r w s = .next t →
    t.engine.err = s.engine.err) ∧
  (∀ (s t : State) (p : Port) (n : Nat), busAccess { port := p, size := n, kind := .read } s = .next t →
    t.engine = s.engine) ∧
  (∀ e e' : Engine, engineStep e = .next e' → e'.err = e.err) ∧
  (∀ s : State, (resetTurn s).engine.err = 0#4)

/-- R280: while BUSY = 1, no step changes KEY, DIN or their validity bits, but a CLEAR or a reset, which puts every element at its
reset value. -/
def Obligations.InputsFixedWhileBusy : Prop :=
  ∀ s t : State, s.ready = true → s.engine.busy = true → step s = .next t → t.ready = true →
    t.engine = Engine.reset ∨
    (t.engine.key = s.engine.key ∧ t.engine.din = s.engine.din ∧ t.engine.keyHiV = s.engine.keyHiV ∧
      t.engine.keyLoV = s.engine.keyLoV ∧ t.engine.dinHiV = s.engine.dinHiV ∧ t.engine.dinLoV = s.engine.dinLoV)

/-- R28, R221, R134: only a KEYSCHED stage writes the subkey store (and CLEAR or reset, which clear it), and a KEYSCHED stage
j + 1 writes SK[j + 1] only; KS_VALID rises only at KEYSCHED stage 16. -/
def Obligations.SubkeyStoreWriters : Prop :=
  ∀ s t : State, s.ready = true → step s = .next t → t.ready = true → t.engine ≠ Engine.reset →
    (t.engine.sk ≠ s.engine.sk → s.engine.busy = true ∧ s.engine.op = .keysched ∧
      ∃ j : Fin 16, s.engine.stage.toNat = j.val + 1 ∧ ∀ k : Fin 16, k ≠ j → t.engine.sk[k] = s.engine.sk[k]) ∧
    (s.engine.ksValid = false → t.engine.ksValid = true →
      s.engine.busy = true ∧ s.engine.op = .keysched ∧ s.engine.stage = 16#5)

/-- R25, R282: DOUT changes only at cipher stage 17 (and by CLEAR or reset). -/
def Obligations.DoutWrittenOnlyByLastStage : Prop :=
  ∀ s t : State, s.ready = true → step s = .next t → t.ready = true → t.engine ≠ Engine.reset →
    t.engine.dout ≠ s.engine.dout →
    s.engine.busy = true ∧ (s.engine.op = .encrypt ∨ s.engine.op = .decrypt) ∧ s.engine.stage = 17#5 ∧
      t.engine.busy = false ∧ t.engine.done = true

/-- R33: DONE rises only when the last stage of a command is performed, and falls only at the acceptance of a multi-stage command,
at an ACK, at a CLEAR or at a reset. -/
def Obligations.DoneRisesAndFalls : Prop :=
  ∀ s t : State, s.ready = true → step s = .next t → t.ready = true →
    (s.engine.done = false → t.engine.done = true →
      s.engine.busy = true ∧ t.engine.busy = false ∧
        ((s.engine.op = .keysched ∧ s.engine.stage = 16#5) ∨
          ((s.engine.op = .encrypt ∨ s.engine.op = .decrypt) ∧ s.engine.stage = 17#5))) ∧
    (s.engine.done = true → t.engine.done = false →
      t.engine = Engine.reset ∨ t.engine = { s.engine with done := false, err := 0#4 } ∨
      (s.engine.busy = false ∧ t.engine.busy = true ∧ t.engine.stage = 0#5))

/-- R205, R21: KEY is read by KEYSCHED stage 0 alone. Two states that differ only in KEY answer every step but that stage with the
same responses and with engines that differ at most in KEY: every read, write, command, reset and loss of power, a KEYSCHED pending
at stage 0 included, and every other engine step. Which agent moves when no turn is listed is the model's choice (log 1). -/
def Obligations.KeyInvisibleButToStageZero : Prop :=
  ∀ (s t : State) (k : Block),
    ¬ (chosenAgent s = .engine ∧ s.ready = true ∧ s.engine.busy = true ∧ s.engine.op = .keysched ∧ s.engine.stage = 0#5) →
    step s = .next t →
    ∃ t' : State, step { s with engine := { s.engine with key := k } } = .next t' ∧
      ∃ k' : Block, t' = { t with engine := { t.engine with key := k' } }

/- The register window. -/

/-- R52: the register map, and that every aligned offset of the window is one register's. -/
def Obligations.RegisterMap : Prop :=
  (offsetOf .cmd = 0x00#6 ∧ offsetOf .status = 0x04#6 ∧ offsetOf .keyHi = 0x08#6 ∧ offsetOf .keyLo = 0x0C#6 ∧
    offsetOf .dinHi = 0x10#6 ∧ offsetOf .dinLo = 0x14#6 ∧ offsetOf .doutHi = 0x18#6 ∧ offsetOf .doutLo = 0x1C#6 ∧
    offsetOf .dbgL = 0x20#6 ∧ offsetOf .dbgR = 0x24#6 ∧ offsetOf .dbgC = 0x28#6 ∧ offsetOf .dbgD = 0x2C#6 ∧
    offsetOf .skSel = 0x30#6 ∧ offsetOf .skHi = 0x34#6 ∧ offsetOf .skLo = 0x38#6 ∧ offsetOf .id = 0x3C#6) ∧
  (∀ r : Reg, regAt (offsetOf r) = r) ∧
  (∀ off : BitVec 6, off.extractLsb' 0 2 = 0#2 → offsetOf (regAt off) = off)

/-- R51: ENGINE_BASE is a multiple of 64, the window is the 64 bytes from it, an address in it is its offset, and an address
outside is not the engine's: the model refuses it (93 I14, log 4). -/
def Obligations.WindowPlacement : Prop :=
  Config.engineBase % 64 = 0 ∧
  (∀ base off : Nat, off < 64 → portOf base (base + off) = .window (BitVec.ofNat 6 off)) ∧
  (∀ base addr : Nat, addr < base ∨ base + 64 ≤ addr → portOf base addr = .outside addr) ∧
  (∀ (addr size : Nat) (k : AccessKind) (s : State),
    busAccess { port := .outside addr, size := size, kind := k } s = .refused (.outsideWindow addr))

/-- R55: a well-formed read answers the register's value in the present state and changes nothing else. -/
def Obligations.ReadsAnswerAndChangeNothing : Prop :=
  ∀ (s : State) (off : BitVec 6), off.extractLsb' 0 2 = 0#2 →
    busAccess { port := .window off, size := 4, kind := .read } s =
      .next { s with responses := .data (readReg (regAt off) s.engine) :: s.responses }

/-- R56: a well-formed write applies the write rule of the register at off[5:2] and completes; it always answers a next state, in
which nothing but the engine and the response has changed. -/
def Obligations.WritesApplyTheRegisterRule : Prop :=
  ∀ (s : State) (off : BitVec 6) (w : Word), off.extractLsb' 0 2 = 0#2 →
    busAccess { port := .window off, size := 4, kind := .write w } s =
      writeReg (regAt off) w { s with responses := .written :: s.responses } ∧
    ∃ e : Engine, busAccess { port := .window off, size := 4, kind := .write w } s =
      .next { s with responses := .written :: s.responses, engine := e }

/-- R57: an access of a size other than 4 bytes, or at an offset with off[1:0] ≠ 0, is answered with BusError(off) and changes no
state of the engine; what the host does next is the host's (93 I15, log 3). -/
def Obligations.MalformedAccessGivesBusError : Prop :=
  ∀ (s : State) (off : BitVec 6) (size : Nat) (k : AccessKind), size ≠ 4 ∨ off.extractLsb' 0 2 ≠ 0#2 →
    ∃ t : State, busAccess { port := .window off, size := size, kind := k } s = .next t ∧
      t.engine = s.engine ∧ t.responses = .busError off :: s.responses ∧ t.ready = s.ready ∧ t.turns = s.turns ∧
      t.busErrorHandler = s.busErrorHandler ∧ t.powerUps = s.powerUps ∧
      (s.busErrorHandler = none → t.host = s.host) ∧ (∀ ops, s.busErrorHandler = some ops → t.host = ops)

/-- R205, R210, R213, R215, R216, R219, R220: the words the data registers read as, bit by bit. -/
def Obligations.DataRegisterReads : Prop :=
  ∀ (e : Engine) (i : Nat), i < 32 →
    (readReg .keyHi e).getLsbD i = false ∧ (readReg .keyLo e).getLsbD i = false ∧
    (readReg .dinHi e).getLsbD i = e.din.getLsbD (32 + i) ∧ (readReg .dinLo e).getLsbD i = e.din.getLsbD i ∧
    (readReg .doutHi e).getLsbD i = e.dout.getLsbD (32 + i) ∧ (readReg .doutLo e).getLsbD i = e.dout.getLsbD i ∧
    (readReg .dbgL e).getLsbD i = e.l.getLsbD i ∧ (readReg .dbgR e).getLsbD i = e.r.getLsbD i ∧
    (readReg .dbgC e).getLsbD i = (decide (i < 28) && e.c.getLsbD i) ∧
    (readReg .dbgD e).getLsbD i = (decide (i < 28) && e.d.getLsbD i) ∧
    (readReg .skHi e).getLsbD i = (decide (i < 16) && (e.sk[e.skSel.toNat]).getLsbD (32 + i)) ∧
    (readReg .skLo e).getLsbD i = (e.sk[e.skSel.toNat]).getLsbD i

/-- R31, R211, R212: every field of the STATUS word, its reserved bits, its value at reset, and that a write to STATUS is
ignored. -/
def Obligations.StatusWordFields : Prop :=
  readReg .status Engine.reset = 0#32 ∧ ∀ e : Engine,
    (readReg .status e).getLsbD 0 = e.busy ∧ (readReg .status e).getLsbD 1 = e.done ∧
    (readReg .status e).getLsbD 2 = e.ksValid ∧ (readReg .status e).getLsbD 3 = e.keyHiV ∧
    (readReg .status e).getLsbD 4 = e.keyLoV ∧ (readReg .status e).getLsbD 5 = e.dinHiV ∧
    (readReg .status e).getLsbD 6 = e.dinLoV ∧ (readReg .status e).getLsbD 7 = false ∧
    (readReg .status e).extractLsb' 8 2 =
      (match e.op with | .none => 0#2 | .keysched => 1#2 | .encrypt => 2#2 | .decrypt => 3#2) ∧
    (readReg .status e).extractLsb' 10 5 = e.stage ∧ (readReg .status e).getLsbD 15 = false ∧
    (readReg .status e).extractLsb' 16 4 = e.err ∧ (readReg .status e).extractLsb' 20 12 = 0#12 ∧
    ∀ (s : State) (w : Word), writeReg .status w s = .next s

/-- R206, R207, R208, R209, R223: the four input writes: accepted while BUSY = 0, with what they write and nothing else; rejected
with BUSY while BUSY = 1. SK_SEL and WI writes are never rejected. -/
def Obligations.InputWrites : Prop :=
  ∀ (s : State) (w : Word),
    (s.engine.busy = false →
      writeReg .keyHi w s = .next { s with
        engine := { s.engine with key := w ++ s.engine.key.extractLsb' 0 32, keyHiV := true, ksValid := false } } ∧
      writeReg .keyLo w s = .next { s with
        engine := { s.engine with key := s.engine.key.extractLsb' 32 32 ++ w, keyLoV := true, ksValid := false } } ∧
      writeReg .dinHi w s = .next { s with
        engine := { s.engine with din := w ++ s.engine.din.extractLsb' 0 32, dinHiV := true } } ∧
      writeReg .dinLo w s = .next { s with
        engine := { s.engine with din := s.engine.din.extractLsb' 32 32 ++ w, dinLoV := true } }) ∧
    (s.engine.busy = true → ∀ r : Reg, r ∈ [Reg.keyHi, .keyLo, .dinHi, .dinLo] →
      writeReg r w s = .next { s with engine := { s.engine with err := 5#4 } }) ∧
    (∀ r : Reg, r ∈ [Reg.skSel, .status, .doutHi, .doutLo, .dbgL, .dbgR, .dbgC, .dbgD, .skHi, .skLo, .id] →
      ∃ t : State, writeReg r w s = .next t ∧ t.engine.err = s.engine.err)

/-- R218: a write to SK_SEL takes w[3:0] and ignores the rest, busy or not; the register reads as its value zero-extended; the
selected subkey is SK[SK_SEL + 1] (R35). -/
def Obligations.SubkeySelector : Prop :=
  ∀ (s : State) (w : Word),
    writeReg .skSel w s = .next { s with engine := { s.engine with skSel := BitVec.ofNat 4 (w.toNat % 16) } } ∧
    (readReg .skSel s.engine).toNat = s.engine.skSel.toNat ∧
    selectedSubkey s.engine = s.engine.sk[s.engine.skSel.toNat]

/-- R212, R214, R217, R221, R222: writes to the read-only registers are ignored; CMD reads 0 (R204) and ID its constant. -/
def Obligations.ReadOnlyRegisters : Prop :=
  (∀ (s : State) (w : Word) (r : Reg), r ∈ [Reg.status, .doutHi, .doutLo, .dbgL, .dbgR, .dbgC, .dbgD, .skHi, .skLo, .id] →
    writeReg r w s = .next s) ∧
  ∀ e : Engine, readReg .cmd e = 0#32 ∧ readReg .id e = 0x44455331#32

/-- R59: every register write but a CMD write is idempotent; a second ENCRYPT right after an accepted one is rejected with BUSY. -/
def Obligations.WritesAreIdempotentButCommands : Prop :=
  (∀ (s t : State) (r : Reg) (w : Word), r ≠ .cmd → writeReg r w s = .next t → writeReg r w t = .next t) ∧
  (∀ s : State, s.engine.busy = false → s.engine.dinHiV = true → s.engine.dinLoV = true → s.engine.ksValid = true →
    ∃ t : State, writeReg .cmd 2#32 s = .next t ∧ t.engine.busy = true ∧ t.engine.err = s.engine.err ∧
      writeReg .cmd 2#32 t = .next { t with engine := { t.engine with err := 5#4 } })

/-- R60, R61: the HI word of a 64-bit value holds DES bits 1..32, the LO word DES bits 33..64, byte i the DES bits
8i + 1 .. 8i + 8; the halves make the value, and key 133457799BBCDFF1 is written as the two words of R60. -/
def Obligations.BitAndByteOrder : Prop :=
  (∀ (v : Block) (i : Nat), 1 ≤ i → i ≤ 32 →
    dbit (hiWord v) i = dbit v i ∧ dbit (loWord v) i = dbit v (32 + i)) ∧
  (∀ v : Block, hiWord v ++ loWord v = v) ∧
  (∀ (v : Block) (i : Fin 8) (j : Nat), 1 ≤ j → j ≤ 8 → dbit (byteOfBlock v i) j = dbit v (8 * i.val + j)) ∧
  ldkey 0x133457799BBCDFF1#64 = [wr .keyHi 0x13345779#32, wr .keyLo 0x9BBCDFF1#32]

/- Reset, power, the host's notation. -/

/-- R270: reset puts every element at 0 whatever was in progress; the fields that are not the engine's stay (log 14). -/
def Obligations.ResetEvent : Prop :=
  ∀ (s : State) (ts : List Agent), s.turns = .reset :: ts →
    step s = .next { s with
      turns := ts
      ready := true
      engine := {
        key := 0#64, keyHiV := false, keyLoV := false, din := 0#64, dinHiV := false, dinLoV := false, dout := 0#64,
        c := 0#28, d := 0#28, l := 0#32, r := 0#32, sk := Vector.replicate 16 0#48, ksValid := false, stage := 0#5,
        op := .none, busy := false, done := false, err := 0#4, skSel := 0#4 } }

/-- R273: after reset the engine is idle, done_o = 0, and every register reads 0 except ID. -/
def Obligations.RegistersAfterReset : Prop :=
  State.reset.engine.busy = false ∧ doneO State.reset = false ∧ readReg .id State.reset.engine = 0x44455331#32 ∧
  ∀ r : Reg, r ≠ .id → readReg r State.reset.engine = 0#32

/-- R271, R258: before the first reset no host access is admitted: the model refuses it (93 I5, log 6), whether the host's turn is
listed or is the default (log 1). Loss of power, and an engine turn before the first reset, leave the engine unspecified: the next
free value of Config, whatever it is (log 6). -/
def Obligations.NothingBeforeTheFirstReset : Prop :=
  (∀ (s : State) (rest : List HostOp), s.ready = false → (∃ ts, s.turns = .host :: ts) ∨ s.turns = [] →
    (∃ a, s.host = .access a :: rest) ∨ s.host = .wait :: rest → step s = .refused .accessBeforeReset) ∧
  (∀ (s : State) (ts : List Agent), s.turns = .powerCycle :: ts ∨ (s.ready = false ∧ s.turns = .engine :: ts) →
    step s = .next { s with
      turns := ts
      engine := Config.unspecifiedEngine s.powerUps
      ready := false
      powerUps := s.powerUps + 1 })

/-- R87: the expansions of the pseudo-operations, run by the host with the engine idle and no turn listed: `ldkey`, `ldblk`,
`rdout`, `rdsk`, `halt`; and one pass of `wait`, which stays while the STATUS it read has bit 0 = 1. The model performs one bus
access a step (log 2). -/
def Obligations.HostPseudoOperations : Prop :=
  ∀ (s : State) (rest : List HostOp), s.ready = true →
    (s.turns = [] → s.engine.busy = false →
      (∀ k : Block, s.host = ldkey k ++ rest →
        Sys2Proof.core.run 2 s = .next { s with
          host := rest
          responses := .written :: .written :: s.responses
          engine := { s.engine with key := k, keyHiV := true, keyLoV := true, ksValid := false } }) ∧
      (∀ b : Block, s.host = ldblk b ++ rest →
        Sys2Proof.core.run 2 s = .next { s with
          host := rest
          responses := .written :: .written :: s.responses
          engine := { s.engine with din := b, dinHiV := true, dinLoV := true } }) ∧
      (s.host = rdout ++ rest → ∃ h l : Word, rdoutValue h l = s.engine.dout ∧
        Sys2Proof.core.run 2 s = .next { s with host := rest, responses := .data l :: .data h :: s.responses }) ∧
      (∀ j : Fin 16, s.host = rdsk (j.val + 1) ++ rest → ∃ h l : Word, rdskValue h l = s.engine.sk[j] ∧
        Sys2Proof.core.run 3 s = .next { s with
          host := rest
          responses := .data l :: .data h :: .written :: s.responses
          engine := { s.engine with skSel := BitVec.ofNat 4 j.val } }) ∧
      (s.host = .halt :: rest → step s = .next { s with host := [] })) ∧
    (∀ ts, s.turns = .host :: ts → s.host = .wait :: rest →
      step s = .next { s with
        turns := ts
        host := if s.engine.busy then .wait :: rest else rest
        responses := .data (readReg .status s.engine) :: s.responses })

/- The functional layer. -/

/-- R132: the round trip, for every key and block; and for every subkey sequence whatever. -/
def Obligations.CipherRoundTrip : Prop :=
  (∀ k b : Block, decryptBlock k (encryptBlock k b) = b ∧ encryptBlock k (decryptBlock k b) = b) ∧
  (∀ (ks : Vector Subkey 16) (b : Block),
    transformBlock (transformBlock b ks .encrypt) ks .decrypt = b ∧
    transformBlock (transformBlock b ks .decrypt) ks .encrypt = b)

/-- R111: the parity positions of the key make no difference to the subkeys. -/
def Obligations.ParityBitsUnused : Prop :=
  ∀ k m : Block, m &&& ~~~0x0101010101010101#64 = 0#64 → deriveSubkeys (k ^^^ m) = deriveSubkeys k

/-- R110: SHIFTS sums to 28 and the halves return to C0, D0 after stage 16. -/
def Obligations.KeyHalvesReturn : Prop :=
  shifts.toList.sum = 28 ∧ ∀ key : Block, keyHalvesAfter key 16 = pc1Split key

/-- R108: the subkeys of a key, by its halves: each stage rotates from where the last left the halves, and the subkey is PC-2 of
the rotated halves. -/
def Obligations.SubkeysFollowTheSchedule : Prop :=
  ∀ (key : Block) (s : Fin 16),
    keyHalvesAfter key 0 = ((permute pc1Table key).extractLsb' 28 28, (permute pc1Table key).extractLsb' 0 28) ∧
    keyHalvesAfter key (s.val + 1) =
      (rotl (keyHalvesAfter key s.val).1 shifts[s], rotl (keyHalvesAfter key s.val).2 shifts[s]) ∧
    (deriveSubkeys key)[s] =
      permute pc2Table ((keyHalvesAfter key (s.val + 1)).1 ++ (keyHalvesAfter key (s.val + 1)).2)

/-- R128(e): under equal subkeys ENCRYPT and DECRYPT compute the same function. -/
def Obligations.EqualSubkeysEncryptAsDecrypt : Prop :=
  ∀ (ks : Vector Subkey 16) (b : Block), (∀ i j : Fin 16, ks[i] = ks[j]) →
    transformBlock b ks .encrypt = transformBlock b ks .decrypt

/-- R160, on bit vectors: DES bit j of the result is DES bit T[j] of the input, for every table of the width. -/
def Obligations.PermuteSelectsTableBits : Prop :=
  ∀ (n m : Nat) (T : PermTable n m) (v : BitVec n) (j : Fin m), dbit (permute T v) (j.val + 1) = dbit v T.entries[j]

/-- R162, R163: rotation by slices, and its corner cases. -/
def Obligations.RotateLeftLaws : Prop :=
  (∀ (w n : Nat) (v : BitVec w), n % w ≠ 0 →
    (rotl v n).toNat = (v.extractLsb' 0 (w - n % w) ++ v.extractLsb' (w - n % w) (n % w)).toNat) ∧
  (∀ (w n : Nat) (v : BitVec w), n % w = 0 → rotl v n = v) ∧
  (∀ (w : Nat) (v : BitVec w), rotl v 0 = v ∧ rotl v w = v ∧ rotl v (w + 1) = rotl v 1) ∧
  (∀ (w a b : Nat) (v : BitVec w), rotl (rotl v a) b = rotl v (a + b)) ∧
  (∀ w n : Nat, rotl (0#w) n = 0#w ∧ rotl (BitVec.allOnes w) n = BitVec.allOnes w)

/-- R195(a): IP and IP^-1 undo each other, in both orders. -/
def Obligations.InitialAndFinalPermutationInverse : Prop :=
  ∀ v : Block, permute ipInvTable (permute ipTable v) = v ∧ permute ipTable (permute ipInvTable v) = v

/-- R195, clauses (b) to (g): the properties of the other tables. -/
def Obligations.TableProperties : Prop :=
  pTable.entries.toList.Perm (List.range' 1 32) ∧
  (∀ i ∈ List.range' 1 32, eTable.entries.toList.count i = 1 ∨ eTable.entries.toList.count i = 2) ∧
  pc1Table.entries.toList.Nodup ∧ (∀ t ∈ pc1Table.entries.toList, 1 ≤ t ∧ t ≤ 64 ∧ t % 8 ≠ 0) ∧
  pc2Table.entries.toList.Nodup ∧ (∀ t ∈ pc2Table.entries.toList, 1 ≤ t ∧ t ≤ 56) ∧
  (∀ (n : Fin 8) (row : Fin 4) (v : BitVec 4), v ∈ (sboxes[n][row]).toList) ∧ shifts.toList.sum = 28

/-- R144, R148: the S-box lookup takes the row from the outer bits and the column from the middle four; over the 64 chunks each
S-box takes each of its 16 outputs exactly 4 times. -/
def Obligations.SboxLookupRule : Prop :=
  (∀ (S : SBox) (b : BitVec 6) (row : Fin 4) (col : Fin 16),
    row.val = 2 * (dbit b 1).toNat + (dbit b 6).toNat →
    col.val = 8 * (dbit b 2).toNat + 4 * (dbit b 3).toNat + 2 * (dbit b 4).toNat + (dbit b 5).toNat →
    sboxLookup S b = S[row][col]) ∧
  (∀ (n : Fin 8) (v : BitVec 4),
    ((List.range 64).filter fun b => sboxLookup sboxes[n] (BitVec.ofNat 6 b) = v).length = 4)

/-- R140, R142, R143, R145, R146: DES bit j of f(r, k) is DES bit P[j] of the concatenated S-box outputs, S-box n of chunk n,
chunk n being DES bits 6n - 5 .. 6n of E(r) xor k. -/
def Obligations.RoundFunctionByBits : Prop :=
  ∀ (r : Half) (k : Subkey),
    (∀ (n : Fin 8) (t : Nat), 1 ≤ t → t ≤ 6 →
      dbit (chunk (permute eTable r ^^^ k) n) t =
        (dbit (permute eTable r) (6 * n.val + t) != dbit k (6 * n.val + t))) ∧
    (∀ (n : Fin 8) (t : Nat), 1 ≤ t → t ≤ 4 →
      dbit (substitute (permute eTable r ^^^ k)) (4 * n.val + t) =
        dbit (sboxLookup sboxes[n] (chunk (permute eTable r ^^^ k) n)) t) ∧
    (∀ j : Fin 32, dbit (roundFunction r k) (j.val + 1) = dbit (substitute (permute eTable r ^^^ k)) pTable.entries[j])

/-- R168, 93 I20: the calls of the functional layer that fail, and how. -/
def Obligations.FunctionalLayerFailures : Prop :=
  (∀ key : List Bool, key.length ≠ 64 → deriveSubkeysBits key = .fault (.invalidInputLength key.length)) ∧
  (∀ (block : List Bool) (ks : List (List Bool)) (dir : Direction), block.length ≠ 64 →
    transformBlockBits block ks dir = .fault (.invalidInputLength block.length)) ∧
  (∀ (block : List Bool) (ks : List (List Bool)) (dir : Direction), block.length = 64 →
    ks.length ≠ 16 ∨ (∃ k ∈ ks, k.length ≠ 48) → transformBlockBits block ks dir = .refused .subkeySequence)

/-- R160, R164 over lists of bits: permute copies the bits the table names or reports the first entry out of range; xor is
element-wise or reports the two lengths. -/
def Obligations.ListPrimitives : Prop :=
  (∀ (T : List Nat) (v : List Bool), (∀ t ∈ T, 1 ≤ t ∧ t ≤ v.length) →
    ∃ out : List Bool, permuteBits T v = .next out ∧ out.length = T.length ∧
      ∀ j, j < T.length → out[j]? = v[T[j]! - 1]?) ∧
  (∀ (T₁ T₂ : List Nat) (t : Nat) (v : List Bool), (∀ x ∈ T₁, 1 ≤ x ∧ x ≤ v.length) → t < 1 ∨ v.length < t →
    permuteBits (T₁ ++ t :: T₂) v = .fault (.indexOutOfRange (T₁.length + 1) t)) ∧
  (∀ a b : List Bool, a.length ≠ b.length → xorBits a b = .fault (.lengthMismatch a.length b.length)) ∧
  (∀ a b : List Bool, a.length = b.length →
    ∃ out : List Bool, xorBits a b = .next out ∧ out.length = a.length ∧
      ∀ i, i < a.length → out[i]? = some (a[i]! != b[i]!))

/-- R108, R130, R168, 93 I18: on inputs of the right shape the functional layer over lists of bits (log 11) gives the bits of what the functional
layer over bit vectors gives. -/
def Obligations.FunctionalLayersAgree : Prop :=
  (∀ key : Block, deriveSubkeysBits (bitsOf key) = .next ((deriveSubkeys key).toList.map bitsOf)) ∧
  (∀ (block : Block) (ks : Vector Subkey 16) (dir : Direction),
    transformBlockBits (bitsOf block) (ks.toList.map bitsOf) dir = .next (bitsOf (transformBlock block ks dir)))
end

