-- ==== Sys2Proof/Laws/Decode.lean ====
section
/-! SUPPORT. The fields of a command word and of an encoded command. -/

namespace Sys2Proof

theorem opcField_toNat (w : Word) : (opcField w).toNat = w.toNat % 16 := by
  simp [opcField, BitVec.extractLsb'_toNat]

theorem rsvdField_toNat (w : Word) : (rsvdField w).toNat = w.toNat / 16 := by
  have := w.isLt
  simp [rsvdField, BitVec.extractLsb'_toNat, Nat.shiftRight_eq_div_pow]
  omega

theorem rsvdField_eq_zero (w : Word) : rsvdField w = 0#28 ↔ w.toNat / 16 = 0 := by
  rw [← BitVec.toNat_inj, rsvdField_toNat]
  simp

@[simp] theorem encode_rsvd (i : Instr) : rsvdField (encode i) = 0#28 := by cases i <;> decide

@[simp] theorem encode_opc (i : Instr) : opcField (encode i) = opcodeOf i := by cases i <;> decide

/-- The opcode map answers an instruction exactly at that instruction's opcode. -/
theorem opcodeMap_ok_iff (opc : BitVec 4) (i : Instr) : opcodeMap opc = .ok i ↔ opc = opcodeOf i := by
  revert opc i
  have h : ∀ opc : BitVec 4, ∀ i : Instr, (match opcodeMap opc with | .ok j => decide (j = i) | .error _ => false) =
      decide (opc = opcodeOf i) := by
    intro opc i
    revert opc
    cases i <;> decide
  intro opc i
  have := h opc i
  cases hm : opcodeMap opc with
  | ok j =>
    rw [hm] at this
    simp only [decide_eq_decide] at this
    simpa using this
  | error x =>
    rw [hm] at this
    simpa using this

end Sys2Proof
end

