-- ==== Sys2Proof/Laws/State.lean ====
section
/-! SUPPORT. The fields of an updated engine and of an updated machine: for each operation, every field after it, true by the
definition of the update. Later proofs rewrite with these and do not unfold the updates. -/

namespace Sys2Proof.Machine

@[simp] theorem reject_fields (code : BitVec 4) (e : Engine) :
    (reject code e).key = e.key ∧ (reject code e).keyHiV = e.keyHiV ∧ (reject code e).keyLoV = e.keyLoV ∧
    (reject code e).din = e.din ∧ (reject code e).dinHiV = e.dinHiV ∧ (reject code e).dinLoV = e.dinLoV ∧
    (reject code e).dout = e.dout ∧ (reject code e).c = e.c ∧ (reject code e).d = e.d ∧ (reject code e).l = e.l ∧
    (reject code e).r = e.r ∧ (reject code e).sk = e.sk ∧ (reject code e).ksValid = e.ksValid ∧
    (reject code e).stage = e.stage ∧ (reject code e).op = e.op ∧ (reject code e).busy = e.busy ∧
    (reject code e).done = e.done ∧ (reject code e).err = code ∧ (reject code e).skSel = e.skSel := by
  simp only [reject, and_self]

@[simp] theorem acknowledge_fields (e : Engine) :
    (acknowledge e).key = e.key ∧ (acknowledge e).keyHiV = e.keyHiV ∧ (acknowledge e).keyLoV = e.keyLoV ∧
    (acknowledge e).din = e.din ∧ (acknowledge e).dinHiV = e.dinHiV ∧ (acknowledge e).dinLoV = e.dinLoV ∧
    (acknowledge e).dout = e.dout ∧ (acknowledge e).c = e.c ∧ (acknowledge e).d = e.d ∧ (acknowledge e).l = e.l ∧
    (acknowledge e).r = e.r ∧ (acknowledge e).sk = e.sk ∧ (acknowledge e).ksValid = e.ksValid ∧
    (acknowledge e).stage = e.stage ∧ (acknowledge e).op = e.op ∧ (acknowledge e).busy = e.busy ∧
    (acknowledge e).done = false ∧ (acknowledge e).err = errNone ∧ (acknowledge e).skSel = e.skSel := by
  simp only [acknowledge, and_self]

@[simp] theorem acceptCommand_fields (op : Op) (e : Engine) :
    (acceptCommand op e).key = e.key ∧ (acceptCommand op e).keyHiV = e.keyHiV ∧
    (acceptCommand op e).keyLoV = e.keyLoV ∧ (acceptCommand op e).din = e.din ∧
    (acceptCommand op e).dinHiV = e.dinHiV ∧ (acceptCommand op e).dinLoV = e.dinLoV ∧
    (acceptCommand op e).dout = e.dout ∧ (acceptCommand op e).c = e.c ∧ (acceptCommand op e).d = e.d ∧
    (acceptCommand op e).l = e.l ∧ (acceptCommand op e).r = e.r ∧ (acceptCommand op e).sk = e.sk ∧
    (acceptCommand op e).ksValid = e.ksValid ∧ (acceptCommand op e).stage = 0#5 ∧ (acceptCommand op e).op = op ∧
    (acceptCommand op e).busy = true ∧ (acceptCommand op e).done = false ∧ (acceptCommand op e).err = e.err ∧
    (acceptCommand op e).skSel = e.skSel := by
  simp only [acceptCommand, and_self]

@[simp] theorem completeCommand_fields (e : Engine) :
    (completeCommand e).key = e.key ∧ (completeCommand e).keyHiV = e.keyHiV ∧ (completeCommand e).keyLoV = e.keyLoV ∧
    (completeCommand e).din = e.din ∧ (completeCommand e).dinHiV = e.dinHiV ∧ (completeCommand e).dinLoV = e.dinLoV ∧
    (completeCommand e).dout = e.dout ∧ (completeCommand e).c = e.c ∧ (completeCommand e).d = e.d ∧
    (completeCommand e).l = e.l ∧ (completeCommand e).r = e.r ∧ (completeCommand e).sk = e.sk ∧
    (completeCommand e).ksValid = e.ksValid ∧ (completeCommand e).stage = e.stage ∧ (completeCommand e).op = e.op ∧
    (completeCommand e).busy = false ∧ (completeCommand e).done = true ∧ (completeCommand e).err = e.err ∧
    (completeCommand e).skSel = e.skSel := by
  simp only [completeCommand, and_self]

@[simp] theorem acceptKeysched_fields (e : Engine) :
    (acceptKeysched e).key = e.key ∧ (acceptKeysched e).keyHiV = e.keyHiV ∧ (acceptKeysched e).keyLoV = e.keyLoV ∧
    (acceptKeysched e).din = e.din ∧ (acceptKeysched e).dinHiV = e.dinHiV ∧ (acceptKeysched e).dinLoV = e.dinLoV ∧
    (acceptKeysched e).dout = e.dout ∧ (acceptKeysched e).c = e.c ∧ (acceptKeysched e).d = e.d ∧
    (acceptKeysched e).l = e.l ∧ (acceptKeysched e).r = e.r ∧ (acceptKeysched e).sk = e.sk ∧
    (acceptKeysched e).ksValid = false ∧ (acceptKeysched e).stage = 0#5 ∧ (acceptKeysched e).op = .keysched ∧
    (acceptKeysched e).busy = true ∧ (acceptKeysched e).done = false ∧ (acceptKeysched e).err = e.err ∧
    (acceptKeysched e).skSel = e.skSel := by
  simp only [acceptKeysched, acceptCommand, and_self]

@[simp] theorem completeKeysched_fields (e : Engine) :
    (completeKeysched e).key = e.key ∧ (completeKeysched e).keyHiV = e.keyHiV ∧
    (completeKeysched e).keyLoV = e.keyLoV ∧ (completeKeysched e).din = e.din ∧
    (completeKeysched e).dinHiV = e.dinHiV ∧ (completeKeysched e).dinLoV = e.dinLoV ∧
    (completeKeysched e).dout = e.dout ∧ (completeKeysched e).c = e.c ∧ (completeKeysched e).d = e.d ∧
    (completeKeysched e).l = e.l ∧ (completeKeysched e).r = e.r ∧ (completeKeysched e).sk = e.sk ∧
    (completeKeysched e).ksValid = true ∧ (completeKeysched e).stage = e.stage ∧ (completeKeysched e).op = e.op ∧
    (completeKeysched e).busy = false ∧ (completeKeysched e).done = true ∧ (completeKeysched e).err = e.err ∧
    (completeKeysched e).skSel = e.skSel := by
  simp only [completeKeysched, completeCommand, and_self]

@[simp] theorem writeKeyHi_fields (w : Word) (e : Engine) :
    (writeKeyHi w e).key = withHi e.key w ∧ (writeKeyHi w e).keyHiV = true ∧ (writeKeyHi w e).keyLoV = e.keyLoV ∧
    (writeKeyHi w e).din = e.din ∧ (writeKeyHi w e).dinHiV = e.dinHiV ∧ (writeKeyHi w e).dinLoV = e.dinLoV ∧
    (writeKeyHi w e).dout = e.dout ∧ (writeKeyHi w e).c = e.c ∧ (writeKeyHi w e).d = e.d ∧ (writeKeyHi w e).l = e.l ∧
    (writeKeyHi w e).r = e.r ∧ (writeKeyHi w e).sk = e.sk ∧ (writeKeyHi w e).ksValid = false ∧
    (writeKeyHi w e).stage = e.stage ∧ (writeKeyHi w e).op = e.op ∧ (writeKeyHi w e).busy = e.busy ∧
    (writeKeyHi w e).done = e.done ∧ (writeKeyHi w e).err = e.err ∧ (writeKeyHi w e).skSel = e.skSel := by
  simp only [writeKeyHi, and_self]

@[simp] theorem writeKeyLo_fields (w : Word) (e : Engine) :
    (writeKeyLo w e).key = withLo e.key w ∧ (writeKeyLo w e).keyHiV = e.keyHiV ∧ (writeKeyLo w e).keyLoV = true ∧
    (writeKeyLo w e).din = e.din ∧ (writeKeyLo w e).dinHiV = e.dinHiV ∧ (writeKeyLo w e).dinLoV = e.dinLoV ∧
    (writeKeyLo w e).dout = e.dout ∧ (writeKeyLo w e).c = e.c ∧ (writeKeyLo w e).d = e.d ∧ (writeKeyLo w e).l = e.l ∧
    (writeKeyLo w e).r = e.r ∧ (writeKeyLo w e).sk = e.sk ∧ (writeKeyLo w e).ksValid = false ∧
    (writeKeyLo w e).stage = e.stage ∧ (writeKeyLo w e).op = e.op ∧ (writeKeyLo w e).busy = e.busy ∧
    (writeKeyLo w e).done = e.done ∧ (writeKeyLo w e).err = e.err ∧ (writeKeyLo w e).skSel = e.skSel := by
  simp only [writeKeyLo, and_self]

@[simp] theorem writeDinHi_fields (w : Word) (e : Engine) :
    (writeDinHi w e).key = e.key ∧ (writeDinHi w e).keyHiV = e.keyHiV ∧ (writeDinHi w e).keyLoV = e.keyLoV ∧
    (writeDinHi w e).din = withHi e.din w ∧ (writeDinHi w e).dinHiV = true ∧ (writeDinHi w e).dinLoV = e.dinLoV ∧
    (writeDinHi w e).dout = e.dout ∧ (writeDinHi w e).c = e.c ∧ (writeDinHi w e).d = e.d ∧ (writeDinHi w e).l = e.l ∧
    (writeDinHi w e).r = e.r ∧ (writeDinHi w e).sk = e.sk ∧ (writeDinHi w e).ksValid = e.ksValid ∧
    (writeDinHi w e).stage = e.stage ∧ (writeDinHi w e).op = e.op ∧ (writeDinHi w e).busy = e.busy ∧
    (writeDinHi w e).done = e.done ∧ (writeDinHi w e).err = e.err ∧ (writeDinHi w e).skSel = e.skSel := by
  simp only [writeDinHi, and_self]

@[simp] theorem writeDinLo_fields (w : Word) (e : Engine) :
    (writeDinLo w e).key = e.key ∧ (writeDinLo w e).keyHiV = e.keyHiV ∧ (writeDinLo w e).keyLoV = e.keyLoV ∧
    (writeDinLo w e).din = withLo e.din w ∧ (writeDinLo w e).dinHiV = e.dinHiV ∧ (writeDinLo w e).dinLoV = true ∧
    (writeDinLo w e).dout = e.dout ∧ (writeDinLo w e).c = e.c ∧ (writeDinLo w e).d = e.d ∧ (writeDinLo w e).l = e.l ∧
    (writeDinLo w e).r = e.r ∧ (writeDinLo w e).sk = e.sk ∧ (writeDinLo w e).ksValid = e.ksValid ∧
    (writeDinLo w e).stage = e.stage ∧ (writeDinLo w e).op = e.op ∧ (writeDinLo w e).busy = e.busy ∧
    (writeDinLo w e).done = e.done ∧ (writeDinLo w e).err = e.err ∧ (writeDinLo w e).skSel = e.skSel := by
  simp only [writeDinLo, and_self]

@[simp] theorem writeSkSel_fields (w : Word) (e : Engine) :
    (writeSkSel w e).key = e.key ∧ (writeSkSel w e).keyHiV = e.keyHiV ∧ (writeSkSel w e).keyLoV = e.keyLoV ∧
    (writeSkSel w e).din = e.din ∧ (writeSkSel w e).dinHiV = e.dinHiV ∧ (writeSkSel w e).dinLoV = e.dinLoV ∧
    (writeSkSel w e).dout = e.dout ∧ (writeSkSel w e).c = e.c ∧ (writeSkSel w e).d = e.d ∧ (writeSkSel w e).l = e.l ∧
    (writeSkSel w e).r = e.r ∧ (writeSkSel w e).sk = e.sk ∧ (writeSkSel w e).ksValid = e.ksValid ∧
    (writeSkSel w e).stage = e.stage ∧ (writeSkSel w e).op = e.op ∧ (writeSkSel w e).busy = e.busy ∧
    (writeSkSel w e).done = e.done ∧ (writeSkSel w e).err = e.err ∧ (writeSkSel w e).skSel = w.extractLsb' 0 4 := by
  simp only [writeSkSel, and_self]

@[simp] theorem ksStagePc1_fields (e : Engine) :
    (ksStagePc1 e).key = e.key ∧ (ksStagePc1 e).keyHiV = e.keyHiV ∧ (ksStagePc1 e).keyLoV = e.keyLoV ∧
    (ksStagePc1 e).din = e.din ∧ (ksStagePc1 e).dinHiV = e.dinHiV ∧ (ksStagePc1 e).dinLoV = e.dinLoV ∧
    (ksStagePc1 e).dout = e.dout ∧ (ksStagePc1 e).c = (pc1Split e.key).1 ∧ (ksStagePc1 e).d = (pc1Split e.key).2 ∧
    (ksStagePc1 e).l = e.l ∧ (ksStagePc1 e).r = e.r ∧ (ksStagePc1 e).sk = e.sk ∧ (ksStagePc1 e).ksValid = e.ksValid ∧
    (ksStagePc1 e).stage = e.stage + 1#5 ∧ (ksStagePc1 e).op = e.op ∧ (ksStagePc1 e).busy = e.busy ∧
    (ksStagePc1 e).done = e.done ∧ (ksStagePc1 e).err = e.err ∧ (ksStagePc1 e).skSel = e.skSel := by
  simp only [ksStagePc1, and_self]

@[simp] theorem ksStageRotate_fields (s : Fin 16) (e : Engine) :
    (ksStageRotate s e).key = e.key ∧ (ksStageRotate s e).keyHiV = e.keyHiV ∧ (ksStageRotate s e).keyLoV = e.keyLoV ∧
    (ksStageRotate s e).din = e.din ∧ (ksStageRotate s e).dinHiV = e.dinHiV ∧ (ksStageRotate s e).dinLoV = e.dinLoV ∧
    (ksStageRotate s e).dout = e.dout ∧ (ksStageRotate s e).c = (rotateHalves s (e.c, e.d)).1 ∧
    (ksStageRotate s e).d = (rotateHalves s (e.c, e.d)).2 ∧ (ksStageRotate s e).l = e.l ∧
    (ksStageRotate s e).r = e.r ∧ (ksStageRotate s e).sk = e.sk.set s (pc2Subkey (rotateHalves s (e.c, e.d))) ∧
    (ksStageRotate s e).ksValid = e.ksValid ∧ (ksStageRotate s e).stage = e.stage + 1#5 ∧
    (ksStageRotate s e).op = e.op ∧ (ksStageRotate s e).busy = e.busy ∧ (ksStageRotate s e).done = e.done ∧
    (ksStageRotate s e).err = e.err ∧ (ksStageRotate s e).skSel = e.skSel := by
  simp only [ksStageRotate, and_self]

@[simp] theorem btStageIp_fields (e : Engine) :
    (btStageIp e).key = e.key ∧ (btStageIp e).keyHiV = e.keyHiV ∧ (btStageIp e).keyLoV = e.keyLoV ∧
    (btStageIp e).din = e.din ∧ (btStageIp e).dinHiV = e.dinHiV ∧ (btStageIp e).dinLoV = e.dinLoV ∧
    (btStageIp e).dout = e.dout ∧ (btStageIp e).c = e.c ∧ (btStageIp e).d = e.d ∧
    (btStageIp e).l = (ipSplit e.din).1 ∧ (btStageIp e).r = (ipSplit e.din).2 ∧ (btStageIp e).sk = e.sk ∧
    (btStageIp e).ksValid = e.ksValid ∧ (btStageIp e).stage = e.stage + 1#5 ∧ (btStageIp e).op = e.op ∧
    (btStageIp e).busy = e.busy ∧ (btStageIp e).done = e.done ∧ (btStageIp e).err = e.err ∧
    (btStageIp e).skSel = e.skSel := by
  simp only [btStageIp, and_self]

@[simp] theorem btStageRound_fields (dir : Direction) (i : Fin 16) (e : Engine) :
    (btStageRound dir i e).key = e.key ∧ (btStageRound dir i e).keyHiV = e.keyHiV ∧
    (btStageRound dir i e).keyLoV = e.keyLoV ∧ (btStageRound dir i e).din = e.din ∧
    (btStageRound dir i e).dinHiV = e.dinHiV ∧ (btStageRound dir i e).dinLoV = e.dinLoV ∧
    (btStageRound dir i e).dout = e.dout ∧ (btStageRound dir i e).c = e.c ∧ (btStageRound dir i e).d = e.d ∧
    (btStageRound dir i e).l = (feistelRound (selectSubkey dir e.sk i) (e.l, e.r)).1 ∧
    (btStageRound dir i e).r = (feistelRound (selectSubkey dir e.sk i) (e.l, e.r)).2 ∧
    (btStageRound dir i e).sk = e.sk ∧ (btStageRound dir i e).ksValid = e.ksValid ∧
    (btStageRound dir i e).stage = e.stage + 1#5 ∧ (btStageRound dir i e).op = e.op ∧
    (btStageRound dir i e).busy = e.busy ∧ (btStageRound dir i e).done = e.done ∧
    (btStageRound dir i e).err = e.err ∧ (btStageRound dir i e).skSel = e.skSel := by
  simp only [btStageRound, and_self]

@[simp] theorem btStageFinal_fields (e : Engine) :
    (btStageFinal e).key = e.key ∧ (btStageFinal e).keyHiV = e.keyHiV ∧ (btStageFinal e).keyLoV = e.keyLoV ∧
    (btStageFinal e).din = e.din ∧ (btStageFinal e).dinHiV = e.dinHiV ∧ (btStageFinal e).dinLoV = e.dinLoV ∧
    (btStageFinal e).dout = ipInvJoin (e.l, e.r) ∧ (btStageFinal e).c = e.c ∧ (btStageFinal e).d = e.d ∧
    (btStageFinal e).l = e.l ∧ (btStageFinal e).r = e.r ∧ (btStageFinal e).sk = e.sk ∧
    (btStageFinal e).ksValid = e.ksValid ∧ (btStageFinal e).stage = e.stage + 1#5 ∧ (btStageFinal e).op = e.op ∧
    (btStageFinal e).busy = false ∧ (btStageFinal e).done = true ∧ (btStageFinal e).err = e.err ∧
    (btStageFinal e).skSel = e.skSel := by
  simp only [btStageFinal, completeCommand, and_self]

@[simp] theorem engineReset_fields :
    (Engine.reset).key = 0#64 ∧ (Engine.reset).keyHiV = false ∧ (Engine.reset).keyLoV = false ∧
    (Engine.reset).din = 0#64 ∧ (Engine.reset).dinHiV = false ∧ (Engine.reset).dinLoV = false ∧
    (Engine.reset).dout = 0#64 ∧ (Engine.reset).c = 0#28 ∧ (Engine.reset).d = 0#28 ∧ (Engine.reset).l = 0#32 ∧
    (Engine.reset).r = 0#32 ∧ (Engine.reset).sk = Vector.replicate 16 0#48 ∧ (Engine.reset).ksValid = false ∧
    (Engine.reset).stage = 0#5 ∧ (Engine.reset).op = .none ∧ (Engine.reset).busy = false ∧
    (Engine.reset).done = false ∧ (Engine.reset).err = 0#4 ∧ (Engine.reset).skSel = 0#4 := by
  simp only [Engine.reset, and_self]

@[simp] theorem clearEngine_eq (e : Engine) : clearEngine e = Engine.reset := rfl

@[simp] theorem onEngine_fields (s : State) (f : Engine → Engine) :
    (s.onEngine f).engine = f s.engine ∧ (s.onEngine f).ready = s.ready ∧ (s.onEngine f).turns = s.turns ∧
    (s.onEngine f).host = s.host ∧ (s.onEngine f).busErrorHandler = s.busErrorHandler ∧
    (s.onEngine f).responses = s.responses ∧ (s.onEngine f).powerUps = s.powerUps := by
  simp only [State.onEngine, and_self]

@[simp] theorem respond_fields (s : State) (x : Response) :
    (s.respond x).engine = s.engine ∧ (s.respond x).ready = s.ready ∧ (s.respond x).turns = s.turns ∧
    (s.respond x).host = s.host ∧ (s.respond x).busErrorHandler = s.busErrorHandler ∧
    (s.respond x).responses = x :: s.responses ∧ (s.respond x).powerUps = s.powerUps := by
  simp only [State.respond, and_self]

@[simp] theorem busErrorAt_fields (s : State) (off : BitVec 6) :
    (s.busErrorAt off).engine = s.engine ∧ (s.busErrorAt off).ready = s.ready ∧ (s.busErrorAt off).turns = s.turns ∧
    (s.busErrorAt off).host = s.busErrorHandler.getD s.host ∧
    (s.busErrorAt off).busErrorHandler = s.busErrorHandler ∧
    (s.busErrorAt off).responses = .busError off :: s.responses ∧ (s.busErrorAt off).powerUps = s.powerUps := by
  simp only [State.busErrorAt, and_self]

@[simp] theorem resetTurn_fields (s : State) :
    (resetTurn s).engine = Engine.reset ∧ (resetTurn s).ready = true ∧ (resetTurn s).turns = s.turns ∧
    (resetTurn s).host = s.host ∧ (resetTurn s).busErrorHandler = s.busErrorHandler ∧
    (resetTurn s).responses = s.responses ∧ (resetTurn s).powerUps = s.powerUps := by
  simp only [resetTurn, and_self]

@[simp] theorem unspecifiedTurn_fields (s : State) :
    (unspecifiedTurn s).engine = Config.unspecifiedEngine s.powerUps ∧ (unspecifiedTurn s).ready = false ∧
    (unspecifiedTurn s).turns = s.turns ∧ (unspecifiedTurn s).host = s.host ∧
    (unspecifiedTurn s).busErrorHandler = s.busErrorHandler ∧ (unspecifiedTurn s).responses = s.responses ∧
    (unspecifiedTurn s).powerUps = s.powerUps + 1 := by
  simp only [unspecifiedTurn, and_self]

@[simp] theorem waitPass_fields (s : State) (rest : List HostOp) :
    (waitPass s rest).engine = s.engine ∧ (waitPass s rest).ready = s.ready ∧ (waitPass s rest).turns = s.turns ∧
    (waitPass s rest).host = (if (readReg .status s.engine).getLsbD 0 then .wait :: rest else rest) ∧
    (waitPass s rest).busErrorHandler = s.busErrorHandler ∧
    (waitPass s rest).responses = .data (readReg .status s.engine) :: s.responses ∧
    (waitPass s rest).powerUps = s.powerUps := by
  simp only [waitPass, and_self]

@[simp] theorem withFetchWord_fields (s : State) (nbits w : Nat) :
    (s.withFetchWord nbits w).engine = s.engine ∧ (s.withFetchWord nbits w).ready = true ∧
    (s.withFetchWord nbits w).turns = .host :: s.turns ∧
    (s.withFetchWord nbits w).host = wr .cmd (tableWord nbits w) :: s.host ∧
    (s.withFetchWord nbits w).busErrorHandler = s.busErrorHandler ∧
    (s.withFetchWord nbits w).responses = s.responses ∧ (s.withFetchWord nbits w).powerUps = s.powerUps := by
  simp only [State.withFetchWord, and_self]

end Sys2Proof.Machine
end

