-- ==== Sys2Proof/Laws/Engine.lean ====
section
/-! SUPPORT. Inversion lemmas: everything a verdict, a stage or an engine step can do, said once. -/

namespace Sys2Proof.Machine

/-- The three verdicts on KEYSCHED (R101, R245). -/
theorem keyschedVerdict_cases (e : Engine) :
    (e.busy = true ∧ keyschedVerdict e = reject errBusy e) ∨
    (e.busy = false ∧ e.keyHiV = true ∧ e.keyLoV = true ∧ keyschedVerdict e = acceptKeysched e) ∨
    (e.busy = false ∧ (e.keyHiV = false ∨ e.keyLoV = false) ∧ keyschedVerdict e = reject errInvalidInputLength e) := by
  unfold keyschedVerdict
  cases e.busy <;> cases e.keyHiV <;> cases e.keyLoV <;> simp

/-- The four verdicts on ENCRYPT and DECRYPT (R121, R245). -/
theorem cipherVerdict_cases (op : Op) (e : Engine) :
    (e.busy = true ∧ cipherVerdict op e = reject errBusy e) ∨
    (e.busy = false ∧ e.dinHiV = true ∧ e.dinLoV = true ∧ e.ksValid = true ∧ cipherVerdict op e = acceptCommand op e) ∨
    (e.busy = false ∧ (e.dinHiV = false ∨ e.dinLoV = false) ∧ cipherVerdict op e = reject errInvalidInputLength e) ∨
    (e.busy = false ∧ e.dinHiV = true ∧ e.dinLoV = true ∧ e.ksValid = false ∧
      cipherVerdict op e = reject errNoKeySchedule e) := by
  unfold cipherVerdict
  cases e.busy <;> cases e.dinHiV <;> cases e.dinLoV <;> cases e.ksValid <;> simp

/-- The two verdicts on an input write (R223, R246). -/
theorem inputWrite_cases (f : Engine → Engine) (e : Engine) :
    (e.busy = true ∧ inputWrite f e = reject errBusy e) ∨ (e.busy = false ∧ inputWrite f e = f e) := by
  unfold inputWrite
  cases e.busy <;> simp

/-- The stage of KEYSCHED numbered `n` (R104). -/
theorem ksStep_zero {e : Engine} (h : e.stage = 0#5) : ksStep e = .next (ksStagePc1 e) := by
  simp [ksStep, h]

theorem ksStep_rotate {e : Engine} (s : Fin 16) (h : e.stage.toNat = s.val + 1) :
    ksStep e = .next (if s = 15 then completeKeysched (ksStageRotate s e) else ksStageRotate s e) := by
  have h0 : e.stage ≠ 0#5 := by intro hc; rw [hc] at h; simp at h
  have h16 : e.stage = 16#5 ↔ s = 15 := by
    rw [← BitVec.toNat_inj, h, Fin.ext_iff]
    simp
  have hle : s.val + 1 ≤ 16 := by omega
  simp only [ksStep, h0, if_false, h, hle, dite_true, h16, Nat.add_sub_cancel, Fin.eta]

theorem btStep_zero {dir : Direction} {e : Engine} (h : e.stage = 0#5) : btStep dir e = .next (btStageIp e) := by
  simp [btStep, h]

theorem btStep_round {dir : Direction} {e : Engine} (i : Fin 16) (h : e.stage.toNat = i.val + 1) :
    btStep dir e = .next (btStageRound dir i e) := by
  have h0 : e.stage ≠ 0#5 := by intro hc; rw [hc] at h; simp at h
  have hle : i.val + 1 ≤ 16 := by omega
  simp only [btStep, h0, if_false, h, hle, dite_true, Nat.add_sub_cancel, Fin.eta]

theorem btStep_final {dir : Direction} {e : Engine} (h : e.stage = 17#5) : btStep dir e = .next (btStageFinal e) := by
  simp [btStep, h]

/-- Everything one step of KEYSCHED can do (R104, R105). -/
theorem ksStep_cases {e e' : Engine} (h : ksStep e = .next e') :
    (e.stage = 0#5 ∧ e' = ksStagePc1 e) ∨
    ∃ s : Fin 16, e.stage.toNat = s.val + 1 ∧
      e' = if s = 15 then completeKeysched (ksStageRotate s e) else ksStageRotate s e := by
  by_cases h0 : e.stage = 0#5
  · rw [ksStep_zero h0] at h
    exact .inl ⟨h0, by simpa using h.symm⟩
  by_cases h16 : e.stage.toNat ≤ 16
  · have hpos : e.stage.toNat ≠ 0 := fun hc => h0 (by rw [← BitVec.toNat_inj]; simpa using hc)
    have hs : e.stage.toNat = (⟨e.stage.toNat - 1, by omega⟩ : Fin 16).val + 1 := by simp only; omega
    rw [ksStep_rotate _ hs] at h
    exact .inr ⟨_, hs, by simpa using h.symm⟩
  · simp [ksStep, h0, h16] at h

/-- Everything one step of ENCRYPT or DECRYPT can do (R125). -/
theorem btStep_cases {dir : Direction} {e e' : Engine} (h : btStep dir e = .next e') :
    (e.stage = 0#5 ∧ e' = btStageIp e) ∨
    (∃ i : Fin 16, e.stage.toNat = i.val + 1 ∧ e' = btStageRound dir i e) ∨
    (e.stage = 17#5 ∧ e' = btStageFinal e) := by
  by_cases h0 : e.stage = 0#5
  · rw [btStep_zero h0] at h
    exact .inl ⟨h0, by simpa using h.symm⟩
  by_cases h16 : e.stage.toNat ≤ 16
  · have hpos : e.stage.toNat ≠ 0 := fun hc => h0 (by rw [← BitVec.toNat_inj]; simpa using hc)
    have hs : e.stage.toNat = (⟨e.stage.toNat - 1, by omega⟩ : Fin 16).val + 1 := by simp only; omega
    rw [btStep_round _ hs] at h
    exact .inr (.inl ⟨_, hs, by simpa using h.symm⟩)
  by_cases h17 : e.stage = 17#5
  · rw [btStep_final h17] at h
    exact .inr (.inr ⟨h17, by simpa using h.symm⟩)
  · simp [btStep, h0, h16, h17] at h

/-- KEYSCHED has a step at every stage up to 16 (R104). -/
theorem ksStep_defined {e : Engine} (h : e.stage.toNat ≤ 16) : ∃ e', ksStep e = .next e' := by
  by_cases h0 : e.stage = 0#5
  · exact ⟨_, ksStep_zero h0⟩
  · have hpos : e.stage.toNat ≠ 0 := fun hc => h0 (by rw [← BitVec.toNat_inj]; simpa using hc)
    exact ⟨_, ksStep_rotate ⟨e.stage.toNat - 1, by omega⟩ (by simp only; omega)⟩

/-- ENCRYPT and DECRYPT have a step at every stage up to 17 (R125). -/
theorem btStep_defined (dir : Direction) {e : Engine} (h : e.stage.toNat ≤ 17) : ∃ e', btStep dir e = .next e' := by
  by_cases h0 : e.stage = 0#5
  · exact ⟨_, btStep_zero h0⟩
  by_cases h17 : e.stage = 17#5
  · exact ⟨_, btStep_final h17⟩
  · have hpos : e.stage.toNat ≠ 0 := fun hc => h0 (by rw [← BitVec.toNat_inj]; simpa using hc)
    have hlt : e.stage.toNat ≠ 17 := fun hc => h17 (by rw [← BitVec.toNat_inj]; simpa using hc)
    exact ⟨_, btStep_round ⟨e.stage.toNat - 1, by omega⟩ (by simp only; omega)⟩

/-- Everything one engine step can do, by the command in progress. -/
theorem engineStep_cases {e e' : Engine} (h : engineStep e = .next e') :
    (e.op = .keysched ∧ ksStep e = .next e') ∨ (e.op = .encrypt ∧ btStep .encrypt e = .next e') ∨
    (e.op = .decrypt ∧ btStep .decrypt e = .next e') := by
  unfold engineStep at h
  cases hop : e.op <;> simp_all

/-- A block transform's step in either direction. -/
theorem engineStep_cipher {e : Engine} {dir : Direction} (h : e.op = .encrypt ∧ dir = .encrypt ∨ e.op = .decrypt ∧ dir = .decrypt) :
    engineStep e = btStep dir e := by
  obtain ⟨h, rfl⟩ | ⟨h, rfl⟩ := h <;> simp [engineStep, h]

theorem engineStep_keysched {e : Engine} (h : e.op = .keysched) : engineStep e = ksStep e := by simp [engineStep, h]

end Sys2Proof.Machine
end

