-- ==== Sys2Proof/Laws/PerInstr.lean ====
section
/-! SUPPORT. Statements about each command as syntax, one lemma per constructor. Family EncodedWord: the command word has a
clear reserved field, its opcode is the opcode map's, and it passes the check of WellFormed (R80, R82). -/

namespace Sys2Proof.Laws.EncodedWord

def Statement (i : Instr) : Prop :=
  i.wf = true ∧ CommandWord.wf (encode i) = true ∧ rsvdField (encode i) = 0#28 ∧ opcField (encode i) = opcodeOf i

theorem nop : Statement .nop := by unfold Statement; decide
theorem keysched : Statement .keysched := by unfold Statement; decide
theorem encrypt : Statement .encrypt := by unfold Statement; decide
theorem decrypt : Statement .decrypt := by unfold Statement; decide
theorem clear : Statement .clear := by unfold Statement; decide
theorem ack : Statement .ack := by unfold Statement; decide

end Sys2Proof.Laws.EncodedWord
end

