-- ==== Sys2Proof/Laws/Primitives.lean ====
section
/-! SUPPORT. One lemma per primitive: the bits of its result. -/

namespace Sys2Proof.Machine

/-- DES bit i + 1 is the library's bit i counted from the most significant. -/
theorem dbit_succ {n : Nat} (v : BitVec n) {i : Nat} (h : i < n) : dbit v (i + 1) = v.getMsbD i := by
  simp [dbit, BitVec.getMsbD_eq_getLsbD, h, Nat.sub_sub, Nat.add_comm 1 i]

theorem permute_getMsbD {n m : Nat} (T : PermTable n m) (v : BitVec n) (j : Fin m) :
    (permute T v).getMsbD j = dbit v T.entries[j] := by
  simp [permute, BitVec.getMsbD_ofFnBE]

theorem rotl_getLsbD {w : Nat} (v : BitVec w) (k i : Nat) :
    (rotl v k).getLsbD i = if i < k % w then v.getLsbD (w - k % w + i) else decide (i < w) && v.getLsbD (i - k % w) := by
  simp only [rotl, BitVec.getLsbD_rotateLeft, cond_eq_ite, decide_eq_true_eq]

theorem leftHalf_append {w : Nat} (a b : BitVec w) : leftHalf (a ++ b) = a := by
  ext i hi
  simp [leftHalf, BitVec.getElem_append, hi]

theorem rightHalf_append {w : Nat} (a b : BitVec w) : rightHalf (a ++ b) = b := by
  ext i hi
  simp [rightHalf, BitVec.getLsbD_append, hi]

theorem leftHalf_append_rightHalf {w : Nat} (v : BitVec (w + w)) : leftHalf v ++ rightHalf v = v := by
  ext i hi
  simp only [leftHalf, rightHalf, BitVec.getElem_append, BitVec.getElem_extractLsb']
  split
  · rw [Nat.zero_add]; exact BitVec.getLsbD_eq_getElem hi
  · rw [Nat.add_sub_cancel' (by omega)]; exact BitVec.getLsbD_eq_getElem hi

theorem bitsOf_length {n : Nat} (v : BitVec n) : (bitsOf v).length = n := by simp [bitsOf]

theorem bitsOf_getElem {n : Nat} (v : BitVec n) {i : Nat} (h : i < (bitsOf v).length) :
    (bitsOf v)[i] = dbit v (i + 1) := by simp [bitsOf]

end Sys2Proof.Machine
end

