-- ==== Sys2Proof/Laws/Step.lean ====
section
/-! SUPPORT. What a command, a bus access, a turn and a step can do, said once. -/

namespace Sys2Proof.Machine

/-- The engine after each command: every command answers a next state, and only the engine changes. -/
def commandEffect (i : Instr) (e : Engine) : Engine :=
  match i with
  | .nop => e
  | .keysched => keyschedVerdict e
  | .encrypt => cipherVerdict .encrypt e
  | .decrypt => cipherVerdict .decrypt e
  | .clear => Engine.reset
  | .ack => acknowledge e

theorem exec_eq (i : Instr) (s : State) : exec i s = .next (s.onEngine (commandEffect i)) := by
  cases i <;> rfl

/-- The engine after a write of `w` to the register `r`. -/
def writeEffect (r : Reg) (w : Word) (e : Engine) : Engine :=
  match r with
  | .cmd =>
    match decode w with
    | .ok i => commandEffect i e
    | .error _ => reject errIllegalCommand e
  | .keyHi => inputWrite (writeKeyHi w) e
  | .keyLo => inputWrite (writeKeyLo w) e
  | .dinHi => inputWrite (writeDinHi w) e
  | .dinLo => inputWrite (writeDinLo w) e
  | .skSel => writeSkSel w e
  | .status | .doutHi | .doutLo | .dbgL | .dbgR | .dbgC | .dbgD | .skHi | .skLo | .id => e

/-- Every register write answers a next state, and only the engine changes. -/
theorem writeReg_eq (r : Reg) (w : Word) (s : State) : writeReg r w s = .next (s.onEngine (writeEffect r w)) := by
  cases r <;> try rfl
  simp only [writeReg, command]
  cases h : decode w with
  | ok i => simp [exec_eq, State.onEngine, writeEffect, h]
  | error x => simp [State.onEngine, writeEffect, h]

/-- Everything an access can do. -/
theorem busAccess_cases {a : Access} {s t : State} (h : busAccess a s = .next t) :
    ∃ off, a.port = .window off ∧
      ((alignedWord off a.size = false ∧ t = s.busErrorAt off) ∨
       (alignedWord off a.size = true ∧ a.kind = .read ∧ t = s.respond (.data (readReg (regAt off) s.engine))) ∨
       ∃ w, alignedWord off a.size = true ∧ a.kind = .write w ∧
         t = (s.respond .written).onEngine (writeEffect (regAt off) w)) := by
  unfold busAccess at h
  cases hp : a.port with
  | outside addr => simp [hp] at h
  | window off =>
    refine ⟨off, rfl, ?_⟩
    cases ha : alignedWord off a.size with
    | false => simp [hp, ha] at h; exact .inl ⟨rfl, h.symm⟩
    | true =>
      cases hk : a.kind with
      | read => simp [hp, ha, hk] at h; exact .inr (.inl ⟨rfl, rfl, h.symm⟩)
      | write w => simp [hp, ha, hk, writeReg_eq] at h; exact .inr (.inr ⟨w, rfl, rfl, h.symm⟩)

/-- What a host turn can do to the engine: nothing, or one register write. -/
theorem hostTurn_engine {s t : State} (h : hostTurn s = .next t) :
    t.ready = s.ready ∧ t.turns = s.turns ∧ t.powerUps = s.powerUps ∧ t.busErrorHandler = s.busErrorHandler ∧
    (t.engine = s.engine ∨ ∃ r w, s.ready = true ∧ t.engine = writeEffect r w s.engine) := by
  unfold hostTurn at h
  split at h
  · simp at h; subst h; simp
  · simp at h; subst h; simp
  · split at h <;> simp at h
    subst h; simp
  · split at h
    · rename_i hr
      obtain ⟨off, -, h | h | ⟨w, -, -, h⟩⟩ := busAccess_cases h
      · obtain ⟨-, rfl⟩ := h; simp
      · obtain ⟨-, -, rfl⟩ := h; simp
      · subst h
        exact ⟨by simp, by simp, by simp, by simp, .inr ⟨regAt off, w, hr, by simp⟩⟩
    · simp at h

/-- What an engine turn can do. -/
theorem engineTurn_cases {s t : State} (h : engineTurn s = .next t) :
    (s.ready = true ∧ s.engine.busy = true ∧ ∃ e, engineStep s.engine = .next e ∧ t = { s with engine := e }) ∨
    (s.ready = true ∧ s.engine.busy = false ∧ t = s) ∨ (s.ready = false ∧ t = unspecifiedTurn s) := by
  unfold engineTurn at h
  split at h
  · rename_i hr
    split at h
    · rename_i hb
      unfold State.withEngineOutcome at h
      split at h <;> simp only [reduceCtorEq, Host.Outcome.next.injEq] at h
      rename_i e he
      exact .inl ⟨hr, hb, e, he, h.symm⟩
    · rename_i hb
      exact .inr (.inl ⟨hr, by simpa using hb, by simpa using h.symm⟩)
  · rename_i hr
    exact .inr (.inr ⟨by simpa using hr, by simpa using h.symm⟩)

/-- The state in which the agent that moves takes its turn. -/
def afterChoice (s : State) : State := { s with turns := s.turns.tail }

@[simp] theorem afterChoice_fields (s : State) :
    (afterChoice s).engine = s.engine ∧ (afterChoice s).ready = s.ready ∧ (afterChoice s).turns = s.turns.tail ∧
    (afterChoice s).host = s.host ∧ (afterChoice s).busErrorHandler = s.busErrorHandler ∧
    (afterChoice s).responses = s.responses ∧ (afterChoice s).powerUps = s.powerUps := by
  simp only [afterChoice, and_self]

theorem step_eq (s : State) : step s = turnOf (chosenAgent s) (afterChoice s) := by
  obtain ⟨e, ready, turns, host, handler, responses, n⟩ := s
  cases turns <;> rfl

/-- Everything a step can do to the engine. -/
theorem step_cases {s t : State} (h : step s = .next t) :
    (t.ready = s.ready ∧ t.engine = s.engine) ∨
    (s.ready = true ∧ t.ready = true ∧ ∃ r w, t.engine = writeEffect r w s.engine) ∨
    (s.ready = true ∧ t.ready = true ∧ s.engine.busy = true ∧ engineStep s.engine = .next t.engine) ∨
    (t.ready = true ∧ t.engine = Engine.reset) ∨
    (t.ready = false ∧ t.engine = Config.unspecifiedEngine s.powerUps) := by
  rw [step_eq] at h
  cases hc : chosenAgent s <;> simp only [hc, turnOf] at h
  · obtain ⟨hr, -, -, -, he | ⟨r, w, h1, he⟩⟩ := hostTurn_engine h
    · exact .inl ⟨by simpa using hr, by simpa using he⟩
    · simp only [afterChoice_fields] at hr h1 he
      exact .inr (.inl ⟨h1, hr.trans h1, r, w, he⟩)
  · obtain ⟨hr, hb, e, he, rfl⟩ | ⟨-, -, rfl⟩ | ⟨-, rfl⟩ := engineTurn_cases h
    · exact .inr (.inr (.inl ⟨by simpa using hr, by simpa using hr, by simpa using hb, by simpa using he⟩))
    · exact .inl (by simp)
    · exact .inr (.inr (.inr (.inr (by simp))))
  · simp at h; subst h; exact .inr (.inr (.inr (.inl (by simp))))
  · simp at h; subst h; exact .inr (.inr (.inr (.inr (by simp))))

/-- One step of an engine that is busy when no turn is listed. -/
theorem step_busy {s : State} (hr : s.ready = true) (ht : s.turns = []) (hb : s.engine.busy = true) :
    step s = s.withEngineOutcome (engineStep s.engine) := by
  simp [step_eq, chosenAgent, ht, defaultAgent, hr, hb, turnOf, engineTurn, State.withEngineOutcome, afterChoice]

/-- One step of a busy engine at its own turn. -/
theorem step_engine {s : State} {ts : List Agent} (hr : s.ready = true) (ht : s.turns = .engine :: ts)
    (hb : s.engine.busy = true) :
    step s = ({ s with turns := ts } : State).withEngineOutcome (engineStep s.engine) := by
  simp [step_eq, chosenAgent, ht, hr, hb, turnOf, engineTurn, State.withEngineOutcome, afterChoice]

theorem run_zero (s : State) : Sys2Proof.core.run 0 s = .next s := rfl

/-- A run begins with its first step. -/
theorem run_succ (n : Nat) {s t : State} (h : step s = .next t) :
    Sys2Proof.core.run (n + 1) s = Sys2Proof.core.run n t := by
  simp only [Host.Core.run, Sys2Proof.core, h]

/-- Runs compose. -/
theorem run_add {n m : Nat} {s t : State} (h : Sys2Proof.core.run n s = .next t) :
    Sys2Proof.core.run (n + m) s = Sys2Proof.core.run m t := by
  induction n generalizing s with
  | zero => cases h; simp
  | succ n ih =>
    rw [Nat.add_right_comm]
    cases hs : step s with
    | next u => rw [run_succ _ hs] at h ⊢; exact ih h
    | fault r => simp [Host.Core.run, Sys2Proof.core, hs] at h
    | refused r => simp [Host.Core.run, Sys2Proof.core, hs] at h

/-- What every step keeps, every run keeps. -/
theorem run_keeps {P : State → Prop} (hP : ∀ s t, P s → step s = .next t → P t) (n : Nat) {s t : State} (h : P s)
    (hr : Sys2Proof.core.run n s = .next t) : P t := by
  induction n generalizing s with
  | zero => cases hr; exact h
  | succ n ih =>
    simp only [Host.Core.run, Sys2Proof.core] at hr
    split at hr <;> try contradiction
    rename_i u hu
    exact ih (hP s u h hu) hr

/-- A run of one step. -/
theorem run_one {s t : State} (h : step s = .next t) : Sys2Proof.core.run 1 s = .next t := by
  rw [run_succ 0 h, run_zero]

@[simp] theorem regAt_offsetOf (r : Reg) : regAt (offsetOf r) = r := by cases r <;> rfl

@[simp] theorem alignedWord_offsetOf (r : Reg) : alignedWord (offsetOf r) 4 = true := by cases r <;> rfl

/-- `wr` when no turn is listed and the engine is idle. -/
theorem step_wr {s : State} {r : Reg} {w : Word} {rest : List HostOp} (hr : s.ready = true) (ht : s.turns = [])
    (hb : s.engine.busy = false) (hh : s.host = wr r w :: rest) :
    step s = .next { s with host := rest, responses := .written :: s.responses, engine := writeEffect r w s.engine } := by
  simp [step_eq, chosenAgent, ht, defaultAgent, hr, hb, turnOf, hostTurn, hh, wr, busAccess, writeReg_eq, State.onEngine,
    State.respond, afterChoice]

/-- `rd` when no turn is listed and the engine is idle. -/
theorem step_rd {s : State} {r : Reg} {rest : List HostOp} (hr : s.ready = true) (ht : s.turns = [])
    (hb : s.engine.busy = false) (hh : s.host = rd r :: rest) :
    step s = .next { s with host := rest, responses := .data (readReg r s.engine) :: s.responses } := by
  simp [step_eq, chosenAgent, ht, defaultAgent, hr, hb, turnOf, hostTurn, hh, rd, busAccess, State.respond, afterChoice]

/-- Bit 0 of STATUS is BUSY (R31): what `wait` polls. -/
theorem statusWord_busy (e : Engine) : (statusWord e).getLsbD 0 = e.busy := by
  unfold statusWord flagBit
  rw [BitVec.getLsbD_setWidth, BitVec.getLsbD_append]
  simp

end Sys2Proof.Machine
end

