-- ==== Sys2Proof/Tests/Slice0.lean ====
section
/-! SUPPORT. The model's own tests. Expected values are those of 95_test_vectors.md (named V-…) and of the rules named; the
`witness_…` theorems show concrete states and operands that meet the hypotheses of the statements of Obligations.lean. -/

namespace Sys2Proof.Tests

open Sys2Proof Sys2Proof.Machine

set_option Elab.async false

/- Helpers. -/

/-- The outcome is a next state with the property `p`. -/
def nextIs {α : Type} (o : Host.Outcome α Fault Refusal) (p : α → Bool) : Bool :=
  match o with
  | .next t => p t
  | _ => false

theorem nextIs_iff {α : Type} (o : Host.Outcome α Fault Refusal) (p : α → Bool) :
    nextIs o p = true ↔ ∃ t, o = .next t ∧ p t = true := by
  cases o <;> simp [nextIs]

/-- The key and the block of the known answer V-SRC-1. -/
def katKey : Block := 0x133457799BBCDFF1#64
def katBlock : Block := 0x0123456789ABCDEF#64

/-- Key and block written, nothing else done: V-CMD-6a before its command. -/
def loaded : Engine :=
  { Engine.reset with key := katKey, keyHiV := true, keyLoV := true, din := katBlock, dinHiV := true, dinLoV := true }

/-- A schedule is stored and the engine is idle after KEYSCHED. -/
def scheduled : Engine :=
  { loaded with sk := deriveSubkeys katKey, ksValid := true, op := .keysched, stage := 17#5, done := true }

/-- KEYSCHED in progress, `n` stages done. -/
def keyscheduling (n : Nat) : Engine :=
  { loaded with
    busy := true
    op := .keysched
    stage := BitVec.ofNat 5 n
    c := (keyHalvesAfter katKey (n - 1)).1
    d := (keyHalvesAfter katKey (n - 1)).2
    sk := deriveSubkeys katKey }

/-- ENCRYPT or DECRYPT in progress, `n` stages done. -/
def ciphering (op : Op) (dir : Direction) (n : Nat) : Engine :=
  { scheduled with
    busy := true
    done := false
    op := op
    stage := BitVec.ofNat 5 n
    l := (blockHalvesAfter dir (deriveSubkeys katKey) (ipSplit katBlock) (n - 1)).1
    r := (blockHalvesAfter dir (deriveSubkeys katKey) (ipSplit katBlock) (n - 1)).2 }

/-- The machine with this engine, these turns and these host operations. -/
def machine (e : Engine) (turns : List Agent := []) (host : List HostOp := []) : State :=
  { State.reset with engine := e, turns := turns, host := host }

/-- STATUS as the host would read it. -/
def status (s : State) : Word := readReg .status s.engine

/- WellFormed: one ill-formed word for each check. -/

theorem test_wf_reserved_bits : CommandWord.reservedClear 0x00000012#32 = false ∧ CommandWord.wf 0x00000012#32 = false := by decide
theorem test_wf_reserved_opcode : CommandWord.opcodeDefined 0x00000006#32 = false ∧ CommandWord.wf 0x00000006#32 = false := by
  decide
theorem test_wf_last_command : CommandWord.wf 0x00000005#32 = true ∧ CommandWord.wf 0x80000005#32 = false := by decide

/- Decode: every command word written out bit by bit, RSVD then OPC (R80, R82). -/

theorem test_decode_nop : decode 0b0000000000000000000000000000_0000#32 = .ok .nop := by decide
theorem test_decode_keysched : decode 0b0000000000000000000000000000_0001#32 = .ok .keysched := by decide
theorem test_decode_encrypt : decode 0b0000000000000000000000000000_0010#32 = .ok .encrypt := by decide
theorem test_decode_decrypt : decode 0b0000000000000000000000000000_0011#32 = .ok .decrypt := by decide
theorem test_decode_clear : decode 0b0000000000000000000000000000_0100#32 = .ok .clear := by decide
theorem test_decode_ack : decode 0b0000000000000000000000000000_0101#32 = .ok .ack := by decide

/-- Part 7 of 95_test_vectors.md: the illegal words. -/
theorem test_decode_illegal :
    decode 0x00000006#32 = .error .reservedOpcode ∧ decode 0x0000000F#32 = .error .reservedOpcode ∧
    decode 0x00000010#32 = .error .reservedBits ∧ decode 0x00000012#32 = .error .reservedBits ∧
    decode 0x80000004#32 = .error .reservedBits ∧ decode 0xFFFFFFFF#32 = .error .reservedBits := by decide

theorem test_decodeTableWord :
    [0, 1, 2, 3, 4, 5, 6].map (decodeTableWord 32) =
      [some .nop, some .keysched, some .encrypt, some .decrypt, some .clear, some .ack, none] := by decide

/- Commands: one step each. -/

/-- V-CMD-2 -/
theorem test_nop : nextIs (step (State.reset.withFetchWord 32 0)) (fun t => t.engine == Engine.reset) = true := by decide

/-- V-CMD-3 -/
theorem test_keysched_without_key :
    nextIs (step (State.reset.withFetchWord 32 1)) (fun t => status t == 0x00010000#32) = true := by decide

/-- V-CMD-17: STATUS after acceptance. -/
theorem test_keysched_accepted :
    nextIs (step ((machine loaded).withFetchWord 32 1)) (fun t => status t == 0x00000179#32) = true := by decide

/-- V-CMD-6a -/
theorem test_encrypt_without_schedule :
    nextIs (step ((machine loaded).withFetchWord 32 2)) (fun t => status t == 0x00040078#32) = true := by decide

/-- V-CMD-9: ENCRYPT while KEYSCHED is in progress, two stages done. -/
theorem test_encrypt_while_busy :
    nextIs (step ((machine (keyscheduling 2)).withFetchWord 32 2)) (fun t => status t == 0x00050979#32) = true := by decide

/-- V-CMD-18: STATUS after acceptance. -/
theorem test_decrypt_accepted :
    nextIs (step ((machine scheduled).withFetchWord 32 3)) (fun t => status t == 0x0000037D#32) = true := by decide

/-- V-CMD-11: CLEAR while ENCRYPT is in progress. -/
theorem test_clear_while_busy :
    status (machine (ciphering .encrypt .encrypt 6)) = 0x00001A7D#32 ∧
    nextIs (step ((machine (ciphering .encrypt .encrypt 6)).withFetchWord 32 4)) (fun t => t.engine == Engine.reset) = true := by
  decide

/-- V-CMD-6 and V-CMD-12: ACK after the end of a command, and while one is in progress. -/
theorem test_ack :
    nextIs (step ((machine { scheduled with op := .encrypt, stage := 18#5 }).withFetchWord 32 5))
      (fun t => status t == 0x00004A7C#32) = true ∧
    nextIs (step ((machine (ciphering .encrypt .encrypt 1)).withFetchWord 32 5)) (fun t => status t == 0x0000067D#32) = true := by
  decide

/-- V-CMD-8: ILLEGAL wins over BUSY. The vector's STATUS is that of an engine whose block is loaded too (log 15). -/
theorem test_illegal_while_busy :
    nextIs (step ((machine (keyscheduling 1)).withFetchWord 32 0x12)) (fun t => status t == 0x00060579#32) = true := by decide

/- Engine steps: the traces of V-KS-1 and V-BT-1. -/

/-- V-KS-1, stage 0. -/
theorem test_keysched_stage_pc1 :
    nextIs (ksStep { keyscheduling 0 with c := 0#28, d := 0#28 })
      (fun e => e.c == 0xF0CCAAF#28 && e.d == 0x556678F#28 && e.stage == 1#5) = true := by decide +kernel

/-- V-KS-1, stage 3: the first double shift. -/
theorem test_keysched_stage_rotate :
    nextIs (ksStep { loaded with busy := true, op := .keysched, c := 0xC332ABF#28, d := 0x5599E3D#28, stage := 3#5 })
      (fun e => e.c == 0x0CCAAFF#28 && e.d == 0x56678F5#28 && e.sk[2] == 0x55FC8A42CF99#48 && e.stage == 4#5) = true := by decide +kernel

/-- V-BT-1, stage 0 and stage 1. -/
theorem test_encrypt_stage_ip :
    nextIs (btStep .encrypt { ciphering .encrypt .encrypt 0 with l := 0#32, r := 0#32 })
      (fun e => e.l == 0xCC00CCFF#32 && e.r == 0xF0AAF0AA#32) = true := by decide +kernel
theorem test_encrypt_stage_round :
    nextIs (btStep .encrypt { loaded with
      busy := true, op := .encrypt, stage := 1#5, l := 0xCC00CCFF#32, r := 0xF0AAF0AA#32
      sk := (Vector.replicate 16 0#48).set 0 0x1B02EFFC7072#48 })
      (fun e => e.l == 0xF0AAF0AA#32 && e.r == 0xEF4A6544#32) = true := by decide +kernel

/-- V-BT-2, stage 1: decryption starts with SK[16]. -/
theorem test_decrypt_stage_round :
    nextIs (btStep .decrypt { loaded with
      busy := true, op := .decrypt, stage := 1#5, l := 0x0A4CD995#32, r := 0x43423234#32
      sk := (Vector.replicate 16 0#48).set 15 0xCB3D8B0E17F5#48 })
      (fun e => e.l == 0x43423234#32 && e.r == 0xC28C960D#32) = true := by decide +kernel

/-- V-BT-1, stage 17. -/
theorem test_encrypt_stage_final :
    nextIs (btStep .encrypt { loaded with
      busy := true, op := .encrypt, stage := 17#5, ksValid := true, l := 0x43423234#32, r := 0x0A4CD995#32 })
      (fun e => e.dout == 0x85E813540F0AB405#64 && statusWord e == 0x00004A7E#32) = true := by decide +kernel

/- Primitives: V-PR, V-SB, V-F. -/

theorem test_permutations :
    permute ipTable 0x0123456789ABCDEF#64 = 0xCC00CCFFF0AAF0AA#64 ∧ permute ipTable 0x8000000000000000#64 = 0x0000000001000000#64 ∧
    permute pc1Table 0x133457799BBCDFF1#64 = 0xF0CCAAF556678F#56 ∧ permute pc1Table 0x0101010101010101#64 = 0#56 ∧
    permute pc2Table 0xE19955FAACCF1E#56 = 0x1B02EFFC7072#48 ∧ permute pc2Table 0x00804480242004#56 = 0#48 ∧
    permute eTable 0x80000000#32 = 0x400000000001#48 ∧ permute eTable 0x00000001#32 = 0x800000000002#48 ∧
    permute pTable 0x5C82B597#32 = 0x234AA9BB#32 := by decide +kernel

theorem test_rotations :
    rotl 0xF0CCAAF#28 1 = 0xE19955F#28 ∧ rotl 0xF0CCAAF#28 2 = 0xC332ABF#28 ∧ rotl 0xF0CCAAF#28 28 = 0xF0CCAAF#28 ∧
    rotl 0xF0CCAAF#28 29 = 0xE19955F#28 ∧ rotl 0x8000000#28 1 = 0x0000001#28 := by decide +kernel

/-- V-SB: the four corner chunks, in the first, the fourth and the last S-box. -/
theorem test_sbox_corners :
    [0x00#6, 0x3F#6, 0x21#6, 0x1E#6].map (sboxLookup sboxes[0]) = [14#4, 13#4, 15#4, 7#4] ∧
    [0x00#6, 0x3F#6, 0x21#6, 0x1E#6].map (sboxLookup sboxes[3]) = [7#4, 14#4, 3#4, 15#4] ∧
    [0x00#6, 0x3F#6, 0x21#6, 0x1E#6].map (sboxLookup sboxes[7]) = [13#4, 11#4, 2#4, 7#4] := by decide +kernel

/-- V-F-2 and V-F-6. -/
theorem test_round_function :
    roundFunction 0xF0AAF0AA#32 0x1B02EFFC7072#48 = 0x234AA9BB#32 ∧ roundFunction 0x80000000#32 0#48 = 0xD0585B9E#32 := by decide +kernel

/- The window. -/

/-- V-CMD-14: SK_SEL takes its low four bits; SK_HI and SK_LO read the selected subkey. -/
theorem test_subkey_readback :
    nextIs (writeReg .skSel 0x12345673#32 (machine { loaded with sk := (Vector.replicate 16 0#48).set 3 0x72ADD6DB351D#48 }))
      (fun t => readReg .skSel t.engine == 3#32 && readReg .skHi t.engine == 0x000072AD#32 &&
        readReg .skLo t.engine == 0xD6DB351D#32) = true := by decide +kernel

/-- V-CMD-10: an input write while busy. -/
theorem test_input_write_while_busy :
    nextIs (writeReg .keyLo 0#32 (machine (keyscheduling 1))) (fun t => status t == 0x00050579#32 && t.engine.key == katKey)
      = true := by decide

/-- V-CMD-13: a key write clears KS_VALID, with the same value as well. -/
theorem test_key_write_clears_schedule :
    nextIs (writeReg .keyHi 0x13345779#32 (machine scheduled)) (fun t => status t == 0x0000457A#32 && t.engine.key == katKey)
      = true := by decide

/-- V-CMD-16: a misaligned write and a narrow write. -/
theorem test_bus_errors :
    nextIs (busAccess { port := .window 0x02#6, size := 4, kind := .write 4#32 } (machine loaded))
      (fun t => t.engine == loaded && t.responses == [.busError 0x02#6]) = true ∧
    nextIs (busAccess { port := .window 0x08#6, size := 2, kind := .write 0#32 } (machine loaded))
      (fun t => t.engine == loaded && t.responses == [.busError 0x08#6]) = true := by decide

/- Witnesses: concrete states and operands that meet the hypotheses of the statements of Obligations.lean. -/

/-- The states of a KEYSCHED in progress meet the invariant, at every stage. -/
theorem inv_keyscheduling (n : Nat) (h : n ≤ 16) (ts : List Agent) (ops : List HostOp) :
    (machine (keyscheduling n) ts ops).Inv := by
  intro _
  have hn : (BitVec.ofNat 5 n).toNat = n := by simp; omega
  constructor
  · constructor <;> simp [machine, keyscheduling, loaded, Engine.reset]
    omega
  · constructor <;> simp [machine, keyscheduling, loaded, Engine.reset, opDirection, errNone, Nat.mod_eq_of_lt (show n < 32 by omega)]

/-- So do the states of an ENCRYPT or DECRYPT in progress. -/
theorem inv_ciphering (op : Op) (dir : Direction) (ho : opDirection op = some dir) (n : Nat) (h : n ≤ 17) (ts : List Agent)
    (ops : List HostOp) : (machine (ciphering op dir n) ts ops).Inv := by
  intro _
  constructor
  · cases op <;> simp [opDirection] at ho <;> subst ho <;>
      (constructor <;> simp [machine, ciphering, scheduled, loaded, Engine.reset]) <;> omega
  · cases op <;> simp [opDirection] at ho <;> subst ho <;>
      constructor <;> simp [machine, ciphering, scheduled, loaded, Engine.reset, opDirection, errNone, Nat.mod_eq_of_lt (show n < 32 by omega)]

theorem witness_StepRunsWrittenCommand :
    decode 1#32 = .ok .keysched ∧
    (machine scheduled [.host, .engine] [wr .cmd 1#32, .wait]).ready = true ∧
    (machine scheduled [.host, .engine] [wr .cmd 1#32, .wait]).host = wr .cmd 1#32 :: [.wait] ∧
    (machine scheduled [.host, .engine] [wr .cmd 1#32, .wait]).turns = .host :: [.engine] ∧
    (machine scheduled [] [wr .cmd 1#32]).turns = [] ∧ (machine scheduled [] [wr .cmd 1#32]).engine.busy = false := by decide

/-- Both clauses of the premise on the word, on an idle and on a busy engine. -/
theorem witness_IllegalWordSetsErrOnly :
    (machine loaded [.host] [wr .cmd 0x10#32]).ready = true ∧ (machine loaded [.host] [wr .cmd 0x10#32]).turns = .host :: [] ∧
    (0x10#32).toNat / 16 ≠ 0 ∧ ¬ 5 < (0x10#32).toNat % 16 ∧ ¬ (6#32).toNat / 16 ≠ 0 ∧ 5 < (6#32).toNat % 16 ∧
    (machine (keyscheduling 1) [.host] [wr .cmd 6#32]).host = wr .cmd 6#32 :: [] := by decide

/-- Every line of the verdict, and both ends of the offsets that name CMD. -/
theorem witness_CommandVerdictInOrder :
    [0x00#6, 0x03#6].map (fun off => off.extractLsb' 2 4) = [0#4, 0#4] ∧ (0x03#6).extractLsb' 0 2 ≠ 0#2 ∧
    [0x10#32, 6#32, 0#32, 4#32, 5#32, 1#32, 2#32, 3#32].map (fun w => (w.extractLsb' 4 28, w.extractLsb' 0 4)) =
      [(1#28, 0#4), (0#28, 6#4), (0#28, 0#4), (0#28, 4#4), (0#28, 5#4), (0#28, 1#4), (0#28, 2#4), (0#28, 3#4)] ∧
    [keyscheduling 0, Engine.reset, loaded, scheduled].map
        (fun e => (e.busy, e.keyHiV && e.keyLoV, e.dinHiV && e.dinLoV, e.ksValid)) =
      [(true, true, true, false), (false, false, false, false), (false, true, true, false), (false, true, true, true)] := by
  decide

theorem witness_KeyschedAcceptance :
    (loaded.busy = false ∧ loaded.keyHiV = true ∧ loaded.keyLoV = true) ∧
    (let e := { loaded with keyHiV := false }; e.busy = false ∧ e.keyHiV = false) ∧
    (let e := { loaded with keyLoV := false }; e.busy = false ∧ e.keyLoV = false) := by decide

theorem witness_CipherAcceptance :
    ((Instr.encrypt = .encrypt ∧ Op.encrypt = .encrypt) ∧ (Instr.decrypt = .decrypt ∧ Op.decrypt = .decrypt)) ∧
    (scheduled.busy = false ∧ scheduled.dinHiV = true ∧ scheduled.dinLoV = true ∧ scheduled.ksValid = true) ∧
    (let e := { scheduled with dinHiV := false }; e.busy = false ∧ e.dinHiV = false) ∧
    (let e := { scheduled with dinLoV := false }; e.busy = false ∧ e.dinLoV = false) ∧
    (loaded.busy = false ∧ loaded.dinHiV = true ∧ loaded.dinLoV = true ∧ loaded.ksValid = false) := by decide

theorem witness_BusyRejectsMultiStageCommands :
    (machine (keyscheduling 0)).engine.busy = true ∧ (machine (ciphering .decrypt .decrypt 17)).engine.busy = true := by decide

/-- A next state for every command; a rejection that changes ERR. -/
theorem witness_CommandFrame :
    ([Instr.nop, .keysched, .encrypt, .decrypt, .clear, .ack].all fun i =>
      nextIs (exec i (machine scheduled)) fun _ => true) = true ∧
    nextIs (exec .encrypt (machine loaded)) (fun t => decide (t.engine.err ≠ (machine loaded).engine.err)) = true := by decide

/-- Stage 0 and both ends of stages j + 1. -/
theorem witness_KeyschedEngineStep :
    ([0, 1, 16].all fun n =>
      let s := machine (keyscheduling n) [.engine]
      decide (s.ready = true ∧ s.turns = .engine :: [] ∧ s.engine.busy = true ∧ s.engine.op = .keysched ∧
        s.engine.stage.toNat = n)) = true := by decide

/-- Stage 0, both ends of the rounds, and stage 17, in both directions. -/
theorem witness_CipherEngineStep :
    ([(Op.encrypt, Direction.encrypt), (.decrypt, .decrypt)].all fun od => [0, 1, 16, 17].all fun n =>
      let s := machine (ciphering od.1 od.2 n) [.engine]
      decide (s.ready = true ∧ s.turns = .engine :: [] ∧ s.engine.busy = true ∧ opDirection s.engine.op = some od.2 ∧
        s.engine.stage.toNat = n)) = true := by decide

theorem witness_IdleEngineChangesNothing :
    ((machine scheduled [.engine, .host]).ready = true ∧ (machine scheduled [.engine, .host]).engine.busy = false ∧
      (machine scheduled [.engine, .host]).turns = .engine :: [.host]) ∧
    ((machine scheduled).turns = [] ∧ (machine scheduled).host = [] ∧ (machine scheduled).engine.busy = false) := by decide

theorem witness_KeyschedRunDerivesSubkeys :
    (machine loaded).ready = true ∧ (machine loaded).turns = [] ∧ (machine loaded).engine.busy = false ∧
    (machine loaded).engine.keyHiV = true ∧ (machine loaded).engine.keyLoV = true := by decide

theorem witness_CipherRunTransformsBlock :
    (machine scheduled).ready = true ∧ (machine scheduled).turns = [] ∧ (machine scheduled).engine.busy = false ∧
    (machine scheduled).engine.dinHiV = true ∧ (machine scheduled).engine.dinLoV = true ∧
    (machine scheduled).engine.ksValid = true := by decide

/-- A state of the invariant from which the last stage of KEYSCHED is performed. -/
theorem witness_StepKeepsInvariant :
    (machine (keyscheduling 16)).Inv ∧ ∃ t, step (machine (keyscheduling 16)) = .next t ∧ t.engine.busy = false :=
  ⟨inv_keyscheduling 16 (by decide) [] [],
    _, by rw [step_busy rfl rfl rfl]; exact congrArg _ (ksStep_rotate (15 : Fin 16) rfl), rfl⟩

/-- A run from a reset engine through a whole KEYSCHED and a whole ENCRYPT: busy and idle states with each OP occur in it. -/
theorem witness_StatusInvariantOfReachableStates :
    let s := machine Engine.reset [] (ldkey katKey ++ ldblk katBlock ++ [cmdOp .keysched, cmdOp .encrypt])
    s.engine = Engine.reset ∧ s.ready = true ∧
    nextIs (Sys2Proof.core.run 4 s) (fun t => t.ready && t.engine.op == .none) = true ∧
    nextIs (Sys2Proof.core.run 21 s) (fun t => t.ready && t.engine.op == .keysched && t.engine.busy && t.engine.stage == 16#5)
      = true ∧
    nextIs (Sys2Proof.core.run 22 s) (fun t => t.ready && t.engine.op == .keysched && t.engine.done && t.engine.ksValid)
      = true ∧
    nextIs (Sys2Proof.core.run 40 s) (fun t => t.ready && t.engine.op == .encrypt && t.engine.busy && t.engine.stage == 17#5)
      = true ∧
    nextIs (Sys2Proof.core.run 41 s) (fun t => t.ready && t.engine.op == .encrypt && t.engine.done) = true := by
  decide +kernel

theorem witness_InvariantStatesAreSafe : (machine (ciphering .decrypt .decrypt 16) [.engine]).Inv :=
  inv_ciphering .decrypt .decrypt rfl 16 (by decide) _ _

/-- The step that completes each of the three commands. -/
theorem witness_CompletionGivesTheResult :
    ((machine (keyscheduling 16)).Inv ∧ (machine (ciphering .encrypt .encrypt 17)).Inv ∧
      (machine (ciphering .decrypt .decrypt 17)).Inv) ∧
    ([keyscheduling 16, ciphering .encrypt .encrypt 17, ciphering .decrypt .decrypt 17].all fun e =>
      (machine e).ready && (machine e).engine.busy &&
        nextIs (step (machine e)) fun t => t.ready && !t.engine.busy && t.engine.done) = true :=
  ⟨⟨inv_keyscheduling 16 (by decide) [] [], inv_ciphering .encrypt .encrypt rfl 17 (by decide) [] [],
    inv_ciphering .decrypt .decrypt rfl 17 (by decide) [] []⟩, by decide⟩

/-- The first and the last stage of the commands, and a number of steps below the bound. -/
theorem witness_CommandsCompleteInBoundedSteps :
    ((machine (keyscheduling 0)).Inv ∧ (machine (keyscheduling 16)).Inv ∧ (machine (ciphering .encrypt .encrypt 0)).Inv ∧
      (machine (ciphering .decrypt .decrypt 17)).Inv) ∧
    ([keyscheduling 0, keyscheduling 16, ciphering .encrypt .encrypt 0, ciphering .decrypt .decrypt 17].all fun e =>
      (machine e).ready && (machine e).engine.busy && (machine e).turns == []) = true ∧
    16 < stageCount (keyscheduling 0).op - (keyscheduling 0).stage.toNat :=
  ⟨⟨inv_keyscheduling 0 (by decide) [] [], inv_keyscheduling 16 (by decide) [] [],
    inv_ciphering .encrypt .encrypt rfl 0 (by decide) [] [], inv_ciphering .decrypt .decrypt rfl 17 (by decide) [] []⟩,
    by decide, by decide⟩

/-- A next state for each clause; the CMD writes set each of the codes 1, 4, 5 and 6. -/
theorem witness_ErrorCodesByOperation :
    ([(Engine.reset, 1#32, 1#4), (loaded, 2#32, 4#4), (keyscheduling 0, 3#32, 5#4), (loaded, 6#32, 6#4)].all fun c =>
      nextIs (writeReg .cmd c.2.1 (machine c.1)) fun t => t.engine.err == c.2.2) = true ∧
    nextIs (writeReg .dinLo 0#32 (machine (keyscheduling 0))) (fun t => t.engine.err == 5#4) = true ∧
    Reg.skSel ∉ [Reg.cmd, .keyHi, .keyLo, .dinHi, .dinLo] ∧
    nextIs (writeReg .skSel 0#32 (machine loaded)) (fun _ => true) = true ∧
    nextIs (busAccess { port := .window 4#6, size := 4, kind := .read } (machine loaded)) (fun _ => true) = true ∧
    nextIs (engineStep (keyscheduling 16)) (fun _ => true) = true := by decide

/-- A busy engine: an input write, and a CLEAR. -/
theorem witness_InputsFixedWhileBusy :
    ([wr .keyHi 0#32, wr .cmd 4#32].all fun op =>
      let s := machine (keyscheduling 1) [.host] [op]
      s.ready && s.engine.busy && nextIs (step s) fun t => t.ready) = true := by decide

/-- V-KS-1, stage 16, over an empty store: SK[16] is written and KS_VALID rises. -/
theorem witness_SubkeyStoreWriters :
    let s := machine
      { loaded with busy := true, op := .keysched, stage := 16#5, c := 0xF866557#28, d := 0xAAB33C7#28 } [.engine]
    s.ready = true ∧ s.engine.ksValid = false ∧
    nextIs (step s) (fun t => t.ready && t.engine != Engine.reset && t.engine.sk != s.engine.sk && t.engine.ksValid &&
      t.engine.sk[15] == 0xCB3D8B0E17F5#48) = true := by decide +kernel

/-- V-BT-1, stage 17. -/
theorem witness_DoutWrittenOnlyByLastStage :
    let s := machine
      { loaded with busy := true, op := .encrypt, stage := 17#5, l := 0x43423234#32, r := 0x0A4CD995#32 } [.engine]
    s.ready = true ∧
    nextIs (step s) (fun t => t.ready && t.engine != Engine.reset && t.engine.dout != s.engine.dout) = true := by decide +kernel

/-- DONE rises at the last stages of KEYSCHED and ENCRYPT; it falls at an acceptance, an ACK, a CLEAR and a reset. -/
theorem witness_DoneRisesAndFalls :
    ([keyscheduling 16, ciphering .encrypt .encrypt 17].all fun e =>
      (machine e).ready && !(machine e).engine.done && nextIs (step (machine e)) fun t => t.ready && t.engine.done) = true ∧
    ([(Agent.host, wr .cmd 1#32), (.host, wr .cmd 5#32), (.host, wr .cmd 4#32), (.reset, .halt)].all fun c =>
      let s := machine scheduled [c.1] [c.2]
      s.ready && s.engine.done && nextIs (step s) fun t => t.ready && !t.engine.done) = true := by decide

/-- Engine steps but KEYSCHED stage 0; every other agent's turn with a KEYSCHED pending at stage 0; a turn that no list gives; and
an engine turn at a pending stage 0 before the first reset. -/
theorem witness_KeyInvisibleButToStageZero :
    ([machine (keyscheduling 1) [.engine], machine (ciphering .encrypt .encrypt 0) [.engine],
      machine (keyscheduling 0) [.host] [rd .keyHi], machine (keyscheduling 0) [.host] [wr .keyHi 0#32],
      machine (keyscheduling 0) [.reset], machine (keyscheduling 0) [.powerCycle], machine scheduled [] [wr .keyHi 0#32],
      { machine (keyscheduling 0) [.engine] with ready := false }].all fun s =>
      decide (¬ (chosenAgent s = .engine ∧ s.ready = true ∧ s.engine.busy = true ∧ s.engine.op = .keysched ∧
        s.engine.stage = 0#5)) && nextIs (step s) fun _ => true) = true := by decide

theorem witness_RegisterMap : (0x00#6).extractLsb' 0 2 = 0#2 ∧ (0x3C#6).extractLsb' 0 2 = 0#2 := by decide

/-- Both ends of the window at base 128, and the addresses just outside. -/
theorem witness_WindowPlacement :
    (0 < 64 ∧ portOf 128 (128 + 0) = .window 0#6) ∧ (63 < 64 ∧ portOf 128 (128 + 63) = .window 0x3F#6) ∧
    (127 < 128 ∧ portOf 128 127 = .outside 127) ∧ (128 + 64 ≤ 192 ∧ portOf 128 192 = .outside 192) := by decide

theorem witness_ReadsAnswerAndChangeNothing : (0x3C#6).extractLsb' 0 2 = 0#2 := by decide

theorem witness_WritesApplyTheRegisterRule : (0x00#6).extractLsb' 0 2 = 0#2 ∧ (0x30#6).extractLsb' 0 2 = 0#2 := by decide

/-- Sizes and offsets just off the well-formed ones, with and without a handler. -/
theorem witness_MalformedAccessGivesBusError :
    (3 ≠ 4 ∧ 5 ≠ 4) ∧ ((0x01#6).extractLsb' 0 2 ≠ 0#2 ∧ (0x3F#6).extractLsb' 0 2 ≠ 0#2) ∧
    (machine loaded).busErrorHandler = none ∧
    ({ machine loaded with busErrorHandler := some [.halt] } : State).busErrorHandler = some [.halt] := by decide

theorem witness_DataRegisterReads : 0 < 32 ∧ 31 < 32 := by decide

theorem witness_InputWrites :
    (machine loaded).engine.busy = false ∧ (machine (keyscheduling 0)).engine.busy = true ∧
    Reg.keyHi ∈ [Reg.keyHi, .keyLo, .dinHi, .dinLo] ∧
    Reg.id ∈ [Reg.skSel, .status, .doutHi, .doutLo, .dbgL, .dbgR, .dbgC, .dbgD, .skHi, .skLo, .id] := by decide

theorem witness_ReadOnlyRegisters :
    Reg.status ∈ [Reg.status, .doutHi, .doutLo, .dbgL, .dbgR, .dbgC, .dbgD, .skHi, .skLo, .id] := by decide

theorem witness_WritesAreIdempotentButCommands :
    (Reg.keyHi ≠ .cmd ∧ nextIs (writeReg .keyHi 1#32 (machine scheduled)) (fun t => t.engine.key != katKey) = true) ∧
    (machine scheduled).engine.busy = false ∧ (machine scheduled).engine.dinHiV = true ∧
    (machine scheduled).engine.dinLoV = true ∧ (machine scheduled).engine.ksValid = true := by decide

theorem witness_BitAndByteOrder : (1 ≤ 1 ∧ 1 ≤ 32) ∧ (1 ≤ 32 ∧ 32 ≤ 32) ∧ (1 ≤ 8 ∧ 8 ≤ 8) := by decide

theorem witness_ResetEvent : (machine (ciphering .encrypt .encrypt 6) [.reset, .host]).turns = .reset :: [.host] := rfl

theorem witness_RegistersAfterReset : Reg.cmd ≠ .id ∧ Reg.skLo ≠ .id := by decide

/-- A listed and a default host turn, with a poll and with an access, on an engine that is busy or idle; loss of power, before and
after the first reset; and an engine turn before it. -/
theorem witness_NothingBeforeTheFirstReset :
    (let s := { machine loaded [.host] [.wait] with ready := false };
      s.ready = false ∧ s.turns = .host :: [] ∧ s.host = .wait :: []) ∧
    (let s := { machine (keyscheduling 0) [] [rd .id] with ready := false };
      s.ready = false ∧ s.turns = [] ∧ s.host = rd .id :: []) ∧
    (machine loaded [.powerCycle]).turns = .powerCycle :: [] ∧
    (let s := { machine loaded [.powerCycle] with ready := false }; s.ready = false ∧ s.turns = .powerCycle :: []) ∧
    (let s := { machine (keyscheduling 0) [.engine] with ready := false }; s.ready = false ∧ s.turns = .engine :: []) := by decide

theorem witness_HostPseudoOperations :
    ([ldkey katKey, ldblk katBlock, rdout, rdsk 1, rdsk 16, [.halt]].all fun ops =>
      let s := machine scheduled [] (ops ++ [.wait])
      decide (s.ready = true ∧ s.turns = [] ∧ s.engine.busy = false ∧ s.host = ops ++ [.wait])) = true ∧
    ([scheduled, keyscheduling 3].all fun e =>
      let s := machine e [.host] [.wait, .halt]
      decide (s.ready = true ∧ s.turns = .host :: [] ∧ s.host = .wait :: [.halt])) = true := by decide

theorem witness_ParityBitsUnused :
    0x0101010101010101#64 &&& ~~~0x0101010101010101#64 = 0#64 ∧ 0x0000000000000001#64 &&& ~~~0x0101010101010101#64 = 0#64 := by
  decide

/-- V-KS-7: the subkeys of the key 1F1F1F1F0E0E0E0E are all 000000FFFFFF. -/
theorem witness_EqualSubkeysEncryptAsDecrypt :
    ∀ i j : Fin 16, (Vector.replicate 16 0x000000FFFFFF#48)[i] = (Vector.replicate 16 0x000000FFFFFF#48)[j] := by decide

theorem witness_RotateLeftLaws : (29 % 28 ≠ 0 ∧ 27 % 28 ≠ 0) ∧ (0 % 28 = 0 ∧ 56 % 28 = 0) := by decide

/-- The four corner chunks of R149(a). -/
theorem witness_SboxLookupRule :
    ([(0x00#6, (0, 0)), (0x3F#6, (3, 15)), (0x21#6, (3, 0)), (0x1E#6, (0, 15))].all fun c =>
      decide (c.2.1 = 2 * (dbit c.1 1).toNat + (dbit c.1 6).toNat ∧
        c.2.2 = 8 * (dbit c.1 2).toNat + 4 * (dbit c.1 3).toNat + 2 * (dbit c.1 4).toNat + (dbit c.1 5).toNat)) = true := by
  decide

theorem witness_RoundFunctionByBits : (1 ≤ 1 ∧ 6 ≤ 6) ∧ (1 ≤ 1 ∧ 4 ≤ 4) := by decide

/-- Lists just off the lengths that are asked for. -/
theorem witness_FunctionalLayerFailures :
    ((List.replicate 63 false).length ≠ 64 ∧ (List.replicate 65 false).length ≠ 64) ∧
    (List.replicate 64 false).length = 64 ∧ (List.replicate 15 (List.replicate 48 false)).length ≠ 16 ∧
    (∃ k ∈ List.replicate 16 (List.replicate 47 false), k.length ≠ 48) := by decide

theorem witness_ListPrimitives :
    (∀ t ∈ [1, 3], 1 ≤ t ∧ t ≤ [true, false, true].length) ∧ (0 < 1 ∧ [true, false, true].length < 4) ∧
    [true].length ≠ [true, false].length ∧ [true, false].length = [false, false].length := by decide

end Sys2Proof.Tests
end

section
/-! The progress of the command under way: what one engine step does to STAGE, BUSY and DONE (R104, R105, R125, R127), and the run
of the stages that remain when no other turn is listed (R9, R290; log 1). -/

namespace Sys2Proof.Machine

/-- `e'` is `e` after one stage of its command, as far as the count of stages goes: the last stage completes the command, an
earlier one leaves BUSY as it is. -/
structure Engine.StagePerformed (e e' : Engine) : Prop where
  op_eq : e'.op = e.op
  stage_eq : e'.stage = e.stage + 1#5
  last_completes : e.stage.toNat + 1 = stageCount e.op → e'.busy = false ∧ e'.done = true
  earlier_goes_on : e.stage.toNat + 1 < stageCount e.op → e'.busy = e.busy

theorem ksStep_stagePerformed {e e' : Engine} (hop : e.op = .keysched) (h : ksStep e = .next e') : e.StagePerformed e' := by
  have hcount : stageCount e.op = 17 := by rw [hop]; rfl
  obtain ⟨h0, rfl⟩ | ⟨j, hj, rfl⟩ := ksStep_cases h
  · exact ⟨by simp, by simp, by simp [hcount, h0], by simp⟩
  · by_cases hlast : j = 15
    · subst hlast
      exact ⟨by simp, by simp, by simp, by simp [hcount, hj]⟩
    · have hearlier : e.stage.toNat + 1 ≠ stageCount e.op := by omega
      simp only [hlast, if_false]
      exact ⟨by simp, by simp, fun hc => absurd hc hearlier, by simp⟩

theorem btStep_stagePerformed {dir : Direction} {e e' : Engine} (hcount : stageCount e.op = 18)
    (h : btStep dir e = .next e') : e.StagePerformed e' := by
  obtain ⟨h0, rfl⟩ | ⟨i, hi, rfl⟩ | ⟨h17, rfl⟩ := btStep_cases h
  · exact ⟨by simp, by simp, by simp [hcount, h0], by simp⟩
  · have hearlier : e.stage.toNat + 1 ≠ stageCount e.op := by omega
    exact ⟨by simp, by simp, fun hc => absurd hc hearlier, by simp⟩
  · exact ⟨by simp, by simp, by simp, by simp [hcount, h17]⟩

theorem engineStep_stagePerformed {e e' : Engine} (h : engineStep e = .next e') : e.StagePerformed e' := by
  obtain ⟨hop, h⟩ | ⟨hop, h⟩ | ⟨hop, h⟩ := engineStep_cases h
  · exact ksStep_stagePerformed hop h
  · exact btStep_stagePerformed (by rw [hop]; rfl) h
  · exact btStep_stagePerformed (by rw [hop]; rfl) h

/-- The engine has a step while a stage of its command remains (R104, R125). -/
theorem engineStep_defined {e : Engine} (h : e.stage.toNat < stageCount e.op) : ∃ e', engineStep e = .next e' := by
  unfold engineStep
  cases hop : e.op <;> simp only [hop, stageCount] at h ⊢
  case none => omega
  case keysched => exact ksStep_defined (by omega)
  case encrypt => exact btStep_defined _ (by omega)
  case decrypt => exact btStep_defined _ (by omega)

/-- R43(a), (b): a busy engine has a stage left. -/
theorem Engine.StatusInv.stage_lt {e : Engine} (hs : e.StatusInv) (hb : e.busy = true) :
    e.stage.toNat < stageCount e.op := by
  cases hop : e.op with
  | none => exact absurd hop (hs.busy_op hb)
  | keysched => exact Nat.lt_succ_of_le (hs.busy_keysched_stage hb hop)
  | encrypt => exact Nat.lt_succ_of_le (hs.busy_cipher_stage hb (.inl hop))
  | decrypt => exact Nat.lt_succ_of_le (hs.busy_cipher_stage hb (.inr hop))

/-- A command is under way with a stage left, and no turn is listed, so that the engine moves (log 1). -/
structure State.UnderWay (s : State) : Prop where
  ready : s.ready = true
  no_turn : s.turns = []
  busy : s.engine.busy = true
  stage_lt : s.engine.stage.toNat < stageCount s.engine.op

/-- A step of a command under way is one stage of it. -/
theorem State.UnderWay.step_performs_stage {s : State} (hs : s.UnderWay) :
    ∃ e', step s = .next { s with engine := e' } ∧ s.engine.StagePerformed e' := by
  obtain ⟨e', he⟩ := engineStep_defined hs.stage_lt
  refine ⟨e', ?_, engineStep_stagePerformed he⟩
  rw [step_busy hs.ready hs.no_turn hs.busy, he]
  rfl

theorem stageCount_le (op : Op) : stageCount op ≤ 18 := by cases op <;> decide

/-- STAGE does not wrap while a stage remains. -/
theorem Engine.StagePerformed.stage_toNat {e e' : Engine} (h : e.StagePerformed e')
    (hlt : e.stage.toNat < stageCount e.op) : e'.stage.toNat = e.stage.toNat + 1 := by
  have hle := stageCount_le e.op
  rw [h.stage_eq, BitVec.toNat_add]
  exact Nat.mod_eq_of_lt (by simp only [BitVec.toNat_ofNat]; omega)

/-- While fewer steps are taken than stages remain, the command stays under way and STAGE counts the steps. -/
theorem State.UnderWay.run_stays_underWay {s : State} (hs : s.UnderWay) (m : Nat)
    (hm : m < stageCount s.engine.op - s.engine.stage.toNat) :
    ∃ u : State, Sys2Proof.core.run m s = .next u ∧ u.UnderWay ∧ u.engine.op = s.engine.op ∧
      u.engine.stage.toNat = s.engine.stage.toNat + m := by
  induction m with
  | zero => exact ⟨s, run_zero s, hs, rfl, rfl⟩
  | succ m ih =>
    obtain ⟨u, hrun, hu, hop, hstage⟩ := ih (by omega)
    obtain ⟨e', hstep, hperf⟩ := hu.step_performs_stage
    have hstage' := hperf.stage_toNat hu.stage_lt
    have hlt : u.engine.stage.toNat + 1 < stageCount u.engine.op := by rw [hop]; omega
    refine ⟨{ u with engine := e' }, (run_add hrun).trans (run_one hstep), ?_, hperf.op_eq.trans hop, by simp only; omega⟩
    exact ⟨hu.ready, hu.no_turn, (hperf.earlier_goes_on hlt).trans hu.busy, by simp only [hperf.op_eq]; omega⟩

/-- The run of all remaining stages completes the command. -/
theorem State.UnderWay.run_completes {s : State} (hs : s.UnderWay) :
    ∃ t : State, Sys2Proof.core.run (stageCount s.engine.op - s.engine.stage.toNat) s = .next t ∧
      t.engine.busy = false ∧ t.engine.done = true := by
  obtain ⟨k, hk⟩ := Nat.exists_eq_add_of_lt hs.stage_lt
  have hremaining : stageCount s.engine.op - s.engine.stage.toNat = k + 1 := by omega
  obtain ⟨u, hrun, hu, hop, hstage⟩ := hs.run_stays_underWay k (by omega)
  obtain ⟨e', hstep, hperf⟩ := hu.step_performs_stage
  rw [hremaining]
  exact ⟨{ u with engine := e' }, (run_add hrun).trans (run_one hstep), hperf.last_completes (by rw [hop]; omega)⟩

/-- Settles O23: a state of the invariant with BUSY = 1 is under way, and its run goes stage by stage to the last one. -/
theorem commandsCompleteInBoundedSteps : Obligations.CommandsCompleteInBoundedSteps := by
  unfold Obligations.CommandsCompleteInBoundedSteps
  intro s hinv hready hbusy hturns
  obtain ⟨hstatus, -⟩ := hinv hready
  have hs : s.UnderWay := ⟨hready, hturns, hbusy, hstatus.stage_lt hbusy⟩
  refine ⟨hs.run_completes, fun m hm => ?_⟩
  obtain ⟨u, hrun, hu, -⟩ := hs.run_stays_underWay m hm
  exact ⟨u, hrun, hu.busy⟩

end Sys2Proof.Machine
end

section
/-! Where the register window stands (R12, R51 of 20_memory.md). -/

namespace Sys2Proof.Machine

theorem engineBase_mod : Config.engineBase % 64 = 0 := Nat.mul_mod_right 64 Config.engineBlock

theorem portOf_inside {base off : Nat} (h : off < 64) : portOf base (base + off) = .window (BitVec.ofNat 6 off) := by
  have hin : base ≤ base + off ∧ base + off < base + 64 := by omega
  rw [portOf, if_pos hin, Nat.add_sub_cancel_left]

theorem portOf_outside {base addr : Nat} (h : addr < base ∨ base + 64 ≤ addr) : portOf base addr = .outside addr := by
  have hout : ¬ (base ≤ addr ∧ addr < base + 64) := by omega
  rw [portOf, if_neg hout]

theorem busAccess_outside (addr size : Nat) (k : AccessKind) (s : State) :
    busAccess { port := .outside addr, size := size, kind := k } s = .refused (.outsideWindow addr) := rfl

/-- Settles O31: ENGINE_BASE is 64 times a constant, and `portOf` compares an address with both ends of the window. -/
theorem windowPlacement : Obligations.WindowPlacement := by
  unfold Obligations.WindowPlacement
  exact ⟨engineBase_mod, fun _ _ => portOf_inside, fun _ _ => portOf_outside, busAccess_outside⟩

end Sys2Proof.Machine
end

section
/-! What one step can do to the engine of a machine that counts as reset, said once (R8, R247): the moves, with the guard of
each. -/

namespace Sys2Proof.Machine

/-- `e.Move e'`: a step can take the engine from `e` to `e'`. Loss of power is no move: it leaves the engine unspecified (R258). -/
inductive Engine.Move (e : Engine) : Engine → Prop
  /-- a read, a turn of an agent with nothing to do, NOP, a write to a read-only register -/
  | unchanged : Move e e
  /-- a rejected command or input write (R242) -/
  | rejected {code : BitVec 4}
      (hcode : code ∈ [errInvalidInputLength, errNoKeySchedule, errBusy, errIllegalCommand]) : Move e (reject code e)
  /-- ACK (R202) -/
  | acknowledged : Move e (acknowledge e)
  /-- CLEAR (R201) and reset (R270) -/
  | cleared : Move e Engine.reset
  /-- R206 -/
  | keyHiWritten (hidle : e.busy = false) (w : Word) : Move e (writeKeyHi w e)
  /-- R207 -/
  | keyLoWritten (hidle : e.busy = false) (w : Word) : Move e (writeKeyLo w e)
  /-- R208 -/
  | dinHiWritten (hidle : e.busy = false) (w : Word) : Move e (writeDinHi w e)
  /-- R209 -/
  | dinLoWritten (hidle : e.busy = false) (w : Word) : Move e (writeDinLo w e)
  /-- R218 -/
  | selectorWritten (w : Word) : Move e (writeSkSel w e)
  /-- R101 -/
  | keyschedAccepted (hidle : e.busy = false) (hhi : e.keyHiV = true) (hlo : e.keyLoV = true) : Move e (acceptKeysched e)
  /-- R121 -/
  | cipherAccepted {op : Op} (hop : op = .encrypt ∨ op = .decrypt) (hidle : e.busy = false) (hhi : e.dinHiV = true)
      (hlo : e.dinLoV = true) (hks : e.ksValid = true) : Move e (acceptCommand op e)
  /-- R104, stage 0 -/
  | keyschedFirst (hbusy : e.busy = true) (hop : e.op = .keysched) (hstage : e.stage = 0#5) : Move e (ksStagePc1 e)
  /-- R104, stages 1 to 15 -/
  | keyschedRotated (hbusy : e.busy = true) (hop : e.op = .keysched) (j : Fin 16) (hstage : e.stage.toNat = j.val + 1)
      (hlast : j ≠ 15) : Move e (ksStageRotate j e)
  /-- R104, R105, stage 16 -/
  | keyschedCompleted (hbusy : e.busy = true) (hop : e.op = .keysched) (hstage : e.stage = 16#5) :
      Move e (completeKeysched (ksStageRotate 15 e))
  /-- R125, stage 0 -/
  | cipherFirst (hbusy : e.busy = true) (hop : e.op = .encrypt ∨ e.op = .decrypt) (hstage : e.stage = 0#5) :
      Move e (btStageIp e)
  /-- R125, stages 1 to 16 -/
  | cipherRound (hbusy : e.busy = true) (dir : Direction) (hop : opDirection e.op = some dir) (i : Fin 16)
      (hstage : e.stage.toNat = i.val + 1) : Move e (btStageRound dir i e)
  /-- R125, R127, stage 17 -/
  | cipherCompleted (hbusy : e.busy = true) (hop : e.op = .encrypt ∨ e.op = .decrypt) (hstage : e.stage = 17#5) :
      Move e (btStageFinal e)

theorem cipher_of_opDirection {op : Op} {dir : Direction} (h : opDirection op = some dir) :
    op = .encrypt ∨ op = .decrypt := by
  cases op <;> simp [opDirection] at h ⊢

namespace Engine.Move

variable {e e' : Engine}

theorem of_keyschedVerdict (e : Engine) : e.Move (keyschedVerdict e) := by
  obtain ⟨-, h⟩ | ⟨hb, hhi, hlo, h⟩ | ⟨-, -, h⟩ := keyschedVerdict_cases e <;> rw [h]
  · exact .rejected (by simp)
  · exact .keyschedAccepted hb hhi hlo
  · exact .rejected (by simp)

theorem of_cipherVerdict {op : Op} (hop : op = .encrypt ∨ op = .decrypt) (e : Engine) : e.Move (cipherVerdict op e) := by
  obtain ⟨-, h⟩ | ⟨hb, hhi, hlo, hks, h⟩ | ⟨-, -, h⟩ | ⟨-, -, -, -, h⟩ := cipherVerdict_cases op e <;> rw [h]
  · exact .rejected (by simp)
  · exact .cipherAccepted hop hb hhi hlo hks
  · exact .rejected (by simp)
  · exact .rejected (by simp)

theorem of_commandEffect (i : Instr) (e : Engine) : e.Move (commandEffect i e) := by
  cases i with
  | nop => exact .unchanged
  | keysched => exact of_keyschedVerdict e
  | encrypt => exact of_cipherVerdict (.inl rfl) e
  | decrypt => exact of_cipherVerdict (.inr rfl) e
  | clear => exact .cleared
  | ack => exact .acknowledged

theorem of_inputWrite {f : Engine → Engine} (hf : e.busy = false → e.Move (f e)) : e.Move (inputWrite f e) := by
  obtain ⟨-, h⟩ | ⟨hb, h⟩ := inputWrite_cases f e <;> rw [h]
  · exact .rejected (by simp)
  · exact hf hb

theorem of_writeEffect (r : Reg) (w : Word) (e : Engine) : e.Move (writeEffect r w e) := by
  cases r with
  | cmd =>
    unfold writeEffect
    cases decode w with
    | ok i => exact of_commandEffect i e
    | error x => exact .rejected (by simp)
  | keyHi => exact of_inputWrite fun hb => .keyHiWritten hb w
  | keyLo => exact of_inputWrite fun hb => .keyLoWritten hb w
  | dinHi => exact of_inputWrite fun hb => .dinHiWritten hb w
  | dinLo => exact of_inputWrite fun hb => .dinLoWritten hb w
  | skSel => exact .selectorWritten w
  | status | doutHi | doutLo | dbgL | dbgR | dbgC | dbgD | skHi | skLo | id => exact .unchanged

theorem of_ksStep (hb : e.busy = true) (hop : e.op = .keysched) (h : ksStep e = .next e') : e.Move e' := by
  obtain ⟨h0, rfl⟩ | ⟨j, hj, rfl⟩ := ksStep_cases h
  · exact .keyschedFirst hb hop h0
  · split
    · rename_i hlast
      subst hlast
      exact .keyschedCompleted hb hop (BitVec.eq_of_toNat_eq hj)
    · exact .keyschedRotated hb hop j hj ‹_›

theorem of_btStep {dir : Direction} (hb : e.busy = true) (hdir : opDirection e.op = some dir)
    (h : btStep dir e = .next e') : e.Move e' := by
  have hop := cipher_of_opDirection hdir
  obtain ⟨h0, rfl⟩ | ⟨i, hi, rfl⟩ | ⟨h17, rfl⟩ := btStep_cases h
  · exact .cipherFirst hb hop h0
  · exact .cipherRound hb dir hdir i hi
  · exact .cipherCompleted hb hop h17

theorem of_engineStep (hb : e.busy = true) (h : engineStep e = .next e') : e.Move e' := by
  obtain ⟨hop, h⟩ | ⟨hop, h⟩ | ⟨hop, h⟩ := engineStep_cases h
  · exact of_ksStep hb hop h
  · exact of_btStep hb (by rw [hop]; rfl) h
  · exact of_btStep hb (by rw [hop]; rfl) h

end Engine.Move

/-- A step to a state that counts as reset is a move of the engine. -/
theorem step_move {s t : State} (ht : t.ready = true) (h : step s = .next t) :
    s.engine.Move t.engine := by
  obtain ⟨-, he⟩ | ⟨-, -, r, w, he⟩ | ⟨-, -, hb, he⟩ | ⟨-, he⟩ | ⟨hlost, -⟩ := step_cases h
  · exact he ▸ .unchanged
  · exact he ▸ .of_writeEffect r w s.engine
  · exact .of_engineStep hb he
  · exact he ▸ .cleared
  · exact absurd ht (by simp [hlost])

/-- Only a reset makes a state count as reset (R271). -/
theorem step_becomes_ready {s t : State} (hs : s.ready = false) (ht : t.ready = true) (h : step s = .next t) :
    t.engine = Engine.reset := by
  obtain ⟨hr, -⟩ | ⟨hr, -⟩ | ⟨hr, -⟩ | ⟨-, he⟩ | ⟨hlost, -⟩ := step_cases h
  · simp [hr, hs] at ht
  · simp [hs] at hr
  · simp [hs] at hr
  · exact he
  · exact absurd ht (by simp [hlost])

end Sys2Proof.Machine
end

section
/-! Every move keeps the invariant: the clauses of R43, and the progress of the command under way, stage by stage. -/

namespace Sys2Proof.Machine

theorem keyHalvesAfter_succ (key : Block) (j : Fin 16) :
    keyHalvesAfter key (j.val + 1) = rotateHalves j (keyHalvesAfter key j.val) := by
  simp [keyHalvesAfter]

theorem deriveSubkeys_getElem (key : Block) (j : Fin 16) :
    (deriveSubkeys key)[j] = pc2Subkey (keyHalvesAfter key (j.val + 1)) := by
  simp [deriveSubkeys]

theorem blockHalvesAfter_succ (dir : Direction) (ks : Vector Subkey 16) (lr : Half × Half) (i : Fin 16) :
    blockHalvesAfter dir ks lr (i.val + 1) = feistelRound (selectSubkey dir ks i) (blockHalvesAfter dir ks lr i.val) := by
  simp [blockHalvesAfter]

/-- STAGE does not wrap at the stages of a command. -/
theorem stage_succ_toNat {stage : BitVec 5} {n : Nat} (h : stage.toNat = n) (hn : n < 31) :
    (stage + 1#5).toNat = n + 1 := by
  rw [BitVec.toNat_add, h]
  exact Nat.mod_eq_of_lt (by simp only [BitVec.toNat_ofNat]; omega)

theorem op_cases_of_ne_none {op : Op} (h : op ≠ .none) : op = .keysched ∨ op = .encrypt ∨ op = .decrypt := by
  cases op <;> simp at h ⊢

namespace Engine

variable {e e' : Engine}

/-- ERR holds a code that the engine raises (R240, R244). -/
def ErrRaised (e : Engine) : Prop :=
  e.err = errNone ∨ e.err = errInvalidInputLength ∨ e.err = errNoKeySchedule ∨ e.err = errBusy ∨ e.err = errIllegalCommand

theorem errRaised_reject {code : BitVec 4}
    (hcode : code ∈ [errInvalidInputLength, errNoKeySchedule, errBusy, errIllegalCommand]) : (reject code e).ErrRaised :=
  .inr (by simpa using hcode)

/-! What is left of the invariant for an idle engine, and for a command under way. -/

/-- With no command under way nothing but ERR is claimed of the progress. -/
theorem progressInv_of_idle (hidle : e.busy = false) (herr : e.ErrRaised) : e.ProgressInv where
  keysched_inputs := by simp [hidle]
  keysched_halves := by simp [hidle]
  keysched_subkeys := by simp [hidle]
  cipher_inputs := by simp [hidle]
  cipher_halves := by simp [hidle]
  err_code := herr

/-- With a KEYSCHED under way nothing is claimed of the cipher's inputs and halves. -/
theorem progressInv_of_keysched (hop : e.op = .keysched) (hinputs : e.keyHiV = true ∧ e.keyLoV = true)
    (hhalves : e.stage ≠ 0#5 → (e.c, e.d) = keyHalvesAfter e.key (e.stage.toNat - 1))
    (hsubkeys : ∀ j : Fin 16, j.val + 1 < e.stage.toNat → e.sk[j] = (deriveSubkeys e.key)[j]) (herr : e.ErrRaised) :
    e.ProgressInv where
  keysched_inputs _ _ := hinputs
  keysched_halves _ _ := hhalves
  keysched_subkeys _ _ := hsubkeys
  cipher_inputs := by simp [hop]
  cipher_halves := by simp [hop, opDirection]
  err_code := herr

/-- With an ENCRYPT or DECRYPT under way nothing is claimed of the key schedule's halves and subkeys. -/
theorem progressInv_of_cipher (hop : e.op = .encrypt ∨ e.op = .decrypt)
    (hinputs : e.dinHiV = true ∧ e.dinLoV = true ∧ e.ksValid = true)
    (hhalves : ∀ dir, opDirection e.op = some dir → e.stage ≠ 0#5 →
      (e.l, e.r) = blockHalvesAfter dir e.sk (ipSplit e.din) (e.stage.toNat - 1)) (herr : e.ErrRaised) :
    e.ProgressInv where
  keysched_inputs _ h := by simp [h] at hop
  keysched_halves _ h := by simp [h] at hop
  keysched_subkeys _ h := by simp [h] at hop
  cipher_inputs _ _ := hinputs
  cipher_halves dir _ := hhalves dir
  err_code := herr

/-- R43 for a KEYSCHED under way: no schedule is valid (R43(d)), and DONE is 0 (R43(f)). -/
theorem statusInv_of_keysched (hbusy : e.busy = true) (hop : e.op = .keysched) (hstage : e.stage.toNat ≤ 16)
    (hks : e.ksValid = false) (hdone : e.done = false) : e.StatusInv where
  busy_op := by simp [hop]
  busy_keysched_stage _ _ := hstage
  busy_cipher_stage := by simp [hop]
  idle_keysched_stage := by simp [hbusy]
  idle_cipher_stage := by simp [hbusy]
  no_op := by simp [hop]
  valid_schedule_idle := by simp [hks]
  valid_schedule_key := by simp [hks]
  valid_schedule := by simp [hks]
  done_idle := by simp [hdone]

/-- R43 for an ENCRYPT or DECRYPT under way, or the last to have been. -/
theorem statusInv_of_cipher (hop : e.op = .encrypt ∨ e.op = .decrypt)
    (hbusy : e.busy = true → e.stage.toNat ≤ 17 ∧ e.done = false) (hidle : e.busy = false → e.stage = 18#5)
    (hkey : e.ksValid = true → e.keyHiV = true ∧ e.keyLoV = true)
    (hsk : e.ksValid = true → e.sk = deriveSubkeys e.key) : e.StatusInv where
  busy_op _ h := by simp [h] at hop
  busy_keysched_stage _ h := by simp [h] at hop
  busy_cipher_stage hb _ := (hbusy hb).1
  idle_keysched_stage _ h := by simp [h] at hop
  idle_cipher_stage hb _ := hidle hb
  no_op h := by simp [h] at hop
  valid_schedule_idle _ := .inr hop
  valid_schedule_key := hkey
  valid_schedule := hsk
  done_idle hd := by
    by_contra hb
    simp [(hbusy (by simpa using hb)).2] at hd

theorem reset_statusInv : Engine.reset.StatusInv := by
  constructor <;> simp

theorem reset_progressInv : Engine.reset.ProgressInv :=
  progressInv_of_idle rfl (.inl rfl)

theorem StatusInv.not_done (h : e.StatusInv) (hbusy : e.busy = true) : e.done = false := by
  by_contra hd
  simp [h.done_idle (by simpa using hd)] at hbusy

theorem StatusInv.not_ksValid (h : e.StatusInv) (hbusy : e.busy = true) (hop : e.op = .keysched) : e.ksValid = false := by
  by_contra hks
  have := h.valid_schedule_idle (by simpa using hks)
  simp [hbusy, hop] at this

/-! The halves and the subkeys after each stage. -/

section KeyschedStage

variable (hp : e.ProgressInv) (hbusy : e.busy = true) (hop : e.op = .keysched) {j : Fin 16}
  (hstage : e.stage.toNat = j.val + 1)

include hp hbusy hop hstage

/-- R103: stage j + 1 takes the halves from (C_j, D_j) to (C_{j+1}, D_{j+1}). -/
theorem ksStageRotate_halves : rotateHalves j (e.c, e.d) = keyHalvesAfter e.key (j.val + 1) := by
  have hne : e.stage ≠ 0#5 := by rintro h; simp [h] at hstage
  have hhalves := hp.keysched_halves hbusy hop hne
  rw [hstage, Nat.add_sub_cancel] at hhalves
  rw [hhalves, keyHalvesAfter_succ]

/-- R106(d): after stage j + 1 the store holds the first j + 1 subkeys. -/
theorem ksStageRotate_subkeys (i : Fin 16) (hi : i.val ≤ j.val) : (ksStageRotate j e).sk[i] = (deriveSubkeys e.key)[i] := by
  have hsk : (ksStageRotate j e).sk = e.sk.set j (pc2Subkey (keyHalvesAfter e.key (j.val + 1))) := by
    simp [ksStageRotate_halves hp hbusy hop hstage]
  rw [hsk, Fin.getElem_fin, Vector.getElem_set]
  split
  · rename_i hij
    rw [← deriveSubkeys_getElem, Fin.ext hij]
  · exact hp.keysched_subkeys hbusy hop i (by omega)

end KeyschedStage

/-- R124, R126: the round of stage i + 1 takes the halves from (L_i, R_i) to (L_{i+1}, R_{i+1}). -/
theorem btStageRound_halves (hp : e.ProgressInv) (hbusy : e.busy = true) {dir : Direction}
    (hdir : opDirection e.op = some dir) {i : Fin 16} (hstage : e.stage.toNat = i.val + 1) :
    feistelRound (selectSubkey dir e.sk i) (e.l, e.r) = blockHalvesAfter dir e.sk (ipSplit e.din) (i.val + 1) := by
  have hne : e.stage ≠ 0#5 := by rintro h; simp [h] at hstage
  have hhalves := hp.cipher_halves dir hbusy hdir hne
  rw [hstage, Nat.add_sub_cancel] at hhalves
  rw [hhalves, blockHalvesAfter_succ]

/-! The moves. -/

/-- R105: the stage that completes KEYSCHED validates the schedule, and by then all sixteen subkeys are in the store. -/
theorem keyschedCompleted_statusInv (hp : e.ProgressInv) (hbusy : e.busy = true) (hop : e.op = .keysched)
    (hstage : e.stage = 16#5) : (completeKeysched (ksStageRotate 15 e)).StatusInv where
  busy_op := by simp
  busy_keysched_stage := by simp
  busy_cipher_stage := by simp
  idle_keysched_stage := by simp [hstage]
  idle_cipher_stage := by simp [hop]
  no_op := by simp [hop]
  valid_schedule_idle := by simp
  valid_schedule_key _ := by simpa using hp.keysched_inputs hbusy hop
  valid_schedule _ := by
    ext j hj : 1
    exact ksStageRotate_subkeys hp hbusy hop (j := 15) (by simp [hstage]) ⟨j, hj⟩ (Nat.le_of_lt_succ hj)
  done_idle := by simp

theorem Move.keeps_statusInv (hm : e.Move e') (hs : e.StatusInv) (hp : e.ProgressInv) : e'.StatusInv := by
  cases hm with
  | unchanged => exact hs
  | rejected => exact { hs with }
  | acknowledged => exact { hs with done_idle := by simp }
  | cleared => exact reset_statusInv
  | keyHiWritten | keyLoWritten =>
    exact { hs with valid_schedule_idle := by simp, valid_schedule_key := by simp, valid_schedule := by simp }
  | dinHiWritten | dinLoWritten | selectorWritten => exact { hs with }
  | keyschedAccepted => exact statusInv_of_keysched (by simp) (by simp) (by simp) (by simp) (by simp)
  | cipherAccepted hop =>
    exact statusInv_of_cipher (by simpa) (by simp) (by simp) hs.valid_schedule_key hs.valid_schedule
  | keyschedFirst hbusy hop hstage =>
    exact statusInv_of_keysched (by simpa) (by simpa) (by simp [hstage]) (by simpa using hs.not_ksValid hbusy hop)
      (by simpa using hs.not_done hbusy)
  | keyschedRotated hbusy hop j hstage hlast =>
    have hnext : (e.stage + 1#5).toNat = j.val + 1 + 1 := stage_succ_toNat hstage (by omega)
    exact statusInv_of_keysched (by simpa) (by simpa) (by simp only [ksStageRotate_fields, hnext]; omega)
      (by simpa using hs.not_ksValid hbusy hop) (by simpa using hs.not_done hbusy)
  | keyschedCompleted hbusy hop hstage => exact keyschedCompleted_statusInv hp hbusy hop hstage
  | cipherFirst hbusy hop hstage =>
    exact statusInv_of_cipher (by simpa) (by simp [hstage, hs.not_done hbusy]) (by simp [hbusy])
      hs.valid_schedule_key hs.valid_schedule
  | cipherRound hbusy dir hdir i hstage =>
    have hnext : (e.stage + 1#5).toNat = i.val + 1 + 1 := stage_succ_toNat hstage (by omega)
    have hbound : (e.stage + 1#5).toNat ≤ 17 := by omega
    exact statusInv_of_cipher (by simpa using cipher_of_opDirection hdir)
      (by simpa [hbusy, hs.not_done hbusy] using hbound) (by simp [hbusy]) hs.valid_schedule_key hs.valid_schedule
  | cipherCompleted hbusy hop hstage =>
    exact statusInv_of_cipher (by simpa) (by simp) (by simp [hstage]) hs.valid_schedule_key hs.valid_schedule

theorem Move.keeps_progressInv (hm : e.Move e') (hp : e.ProgressInv) : e'.ProgressInv := by
  cases hm with
  | unchanged => exact hp
  | rejected hcode => exact { hp with err_code := errRaised_reject hcode }
  | acknowledged => exact { hp with err_code := .inl rfl }
  | cleared => exact reset_progressInv
  | keyHiWritten hidle | keyLoWritten hidle | dinHiWritten hidle | dinLoWritten hidle =>
    exact progressInv_of_idle hidle hp.err_code
  | selectorWritten => exact { hp with }
  | keyschedAccepted hidle hhi hlo =>
    exact progressInv_of_keysched rfl ⟨hhi, hlo⟩ (by simp) (by simp) hp.err_code
  | cipherAccepted hop hidle hhi hlo hks =>
    exact progressInv_of_cipher hop ⟨hhi, hlo, hks⟩ (by simp) hp.err_code
  | keyschedFirst hbusy hop hstage =>
    exact progressInv_of_keysched hop (hp.keysched_inputs hbusy hop) (by simp [hstage, keyHalvesAfter])
      (by simp [hstage]) hp.err_code
  | keyschedRotated hbusy hop j hstage hlast =>
    have hnext : (ksStageRotate j e).stage.toNat = j.val + 1 + 1 := stage_succ_toNat hstage (by omega)
    refine progressInv_of_keysched hop (hp.keysched_inputs hbusy hop) (fun _ => ?_) (fun i hi => ?_) hp.err_code
    · rw [hnext]
      exact ksStageRotate_halves hp hbusy hop hstage
    · exact ksStageRotate_subkeys hp hbusy hop hstage i (by omega)
  | keyschedCompleted => exact progressInv_of_idle rfl hp.err_code
  | cipherFirst hbusy hop hstage =>
    exact progressInv_of_cipher hop (hp.cipher_inputs hbusy hop) (by simp [hstage, blockHalvesAfter]) hp.err_code
  | cipherRound hbusy dir hdir i hstage =>
    have hop := cipher_of_opDirection hdir
    refine progressInv_of_cipher hop (hp.cipher_inputs hbusy hop) (fun dir' hdir' _ => ?_) hp.err_code
    obtain rfl : dir = dir' := Option.some_inj.mp (hdir.symm.trans hdir')
    have hnext : (btStageRound dir i e).stage.toNat = i.val + 1 + 1 := stage_succ_toNat hstage (by omega)
    rw [hnext]
    exact btStageRound_halves hp hbusy hdir hstage
  | cipherCompleted => exact progressInv_of_idle rfl hp.err_code

end Engine

theorem State.inv_of_reset {s : State} (h : s.engine = Engine.reset) : s.Inv :=
  fun _ => h ▸ ⟨Engine.reset_statusInv, Engine.reset_progressInv⟩

theorem step_keeps_inv {s t : State} (hs : s.Inv) (h : step s = .next t) : t.Inv := by
  intro ht
  cases hr : s.ready with
  | false => exact State.inv_of_reset (step_becomes_ready hr ht h) ht
  | true =>
    obtain ⟨hstatus, hprogress⟩ := hs hr
    have hm := step_move ht h
    exact ⟨hm.keeps_statusInv hstatus hprogress, hm.keeps_progressInv hprogress⟩

/-- Settles O18: the reset engine is idle, with no command and no schedule. -/
theorem invariantAtReset : Obligations.InvariantAtReset := by
  unfold Obligations.InvariantAtReset
  exact State.inv_of_reset rfl

/-- Settles O19: a step is a move of the engine, or a reset of a machine that was not ready. -/
theorem stepKeepsInvariant : Obligations.StepKeepsInvariant := by
  unfold Obligations.StepKeepsInvariant
  exact fun _ _ => step_keeps_inv

/-- Settles O20: the invariant holds at the reset engine and along the run. -/
theorem statusInvariantOfReachableStates : Obligations.StatusInvariantOfReachableStates := by
  unfold Obligations.StatusInvariantOfReachableStates
  intro s t n hreset _ hrun ht
  have hinv : t.Inv := run_keeps (fun _ _ => step_keeps_inv) n (State.inv_of_reset hreset) hrun
  obtain ⟨h, -⟩ := hinv ht
  refine ⟨fun hb => ?_, h.busy_keysched_stage, h.busy_cipher_stage, h.idle_keysched_stage, h.idle_cipher_stage, h.no_op,
    h.valid_schedule_idle, h.valid_schedule_key, h.valid_schedule, h.done_idle⟩
  exact op_cases_of_ne_none (h.busy_op hb)

end Sys2Proof.Machine
end

section
/-! What the moves of the engine write: the subkey store, KS_VALID, DOUT and DONE (R25, R28, R33). -/

namespace Sys2Proof.Machine

namespace Engine.Move

variable {e e' : Engine}

/-- R28, R134, R221: beside CLEAR and reset, only stage j + 1 of KEYSCHED writes the store, and only SK[j + 1]. -/
theorem sk_written (hm : e.Move e') (hreset : e' ≠ Engine.reset) (hsk : e'.sk ≠ e.sk) :
    e.busy = true ∧ e.op = .keysched ∧
      ∃ j : Fin 16, e.stage.toNat = j.val + 1 ∧ ∀ k : Fin 16, k ≠ j → e'.sk[k] = e.sk[k] := by
  have hother (j : Fin 16) (x : Subkey) (k : Fin 16) (hk : k ≠ j) : (e.sk.set j x)[k] = e.sk[k] :=
    Vector.getElem_set_ne _ _ fun h => hk (Fin.ext h.symm)
  cases hm with
  | keyschedRotated hbusy hop j hstage => exact ⟨hbusy, hop, j, hstage, hother j _⟩
  | keyschedCompleted hbusy hop hstage => exact ⟨hbusy, hop, 15, by simp [hstage], hother 15 _⟩
  | cleared => exact absurd rfl hreset
  | _ => exact absurd rfl hsk

/-- R28: KS_VALID rises only at stage 16 of KEYSCHED. -/
theorem ksValid_rises (hm : e.Move e') (h : e.ksValid = false) (h' : e'.ksValid = true) :
    e.busy = true ∧ e.op = .keysched ∧ e.stage = 16#5 := by
  cases hm with
  | keyschedCompleted hbusy hop hstage => exact ⟨hbusy, hop, hstage⟩
  | keyHiWritten | keyLoWritten | keyschedAccepted | cleared => simp at h'
  | _ => exact absurd h' (by simp [h])

/-- R25, R282: beside CLEAR and reset, only stage 17 of ENCRYPT and DECRYPT writes DOUT, and it completes the command. -/
theorem dout_written (hm : e.Move e') (hreset : e' ≠ Engine.reset) (hdout : e'.dout ≠ e.dout) :
    e.busy = true ∧ (e.op = .encrypt ∨ e.op = .decrypt) ∧ e.stage = 17#5 ∧ e'.busy = false ∧ e'.done = true := by
  cases hm with
  | cipherCompleted hbusy hop hstage => exact ⟨hbusy, hop, hstage, rfl, rfl⟩
  | cleared => exact absurd rfl hreset
  | _ => exact absurd rfl hdout

/-- R33: DONE rises only at the last stage of a command. -/
theorem done_rises (hm : e.Move e') (h : e.done = false) (h' : e'.done = true) :
    e.busy = true ∧ e'.busy = false ∧
      ((e.op = .keysched ∧ e.stage = 16#5) ∨ ((e.op = .encrypt ∨ e.op = .decrypt) ∧ e.stage = 17#5)) := by
  cases hm with
  | keyschedCompleted hbusy hop hstage => exact ⟨hbusy, rfl, .inl ⟨hop, hstage⟩⟩
  | cipherCompleted hbusy hop hstage => exact ⟨hbusy, rfl, .inr ⟨hop, hstage⟩⟩
  | acknowledged | cleared | keyschedAccepted | cipherAccepted => simp at h'
  | _ => exact absurd h' (by simp [h])

/-- R33: DONE falls only at CLEAR and reset, at ACK, and at the acceptance of a multi-stage command. -/
theorem done_falls (hm : e.Move e') (h : e.done = true) (h' : e'.done = false) :
    e' = Engine.reset ∨ e' = acknowledge e ∨ (e.busy = false ∧ e'.busy = true ∧ e'.stage = 0#5) := by
  cases hm with
  | cleared => exact .inl rfl
  | acknowledged => exact .inr (.inl rfl)
  | keyschedAccepted hidle | cipherAccepted _ hidle => exact .inr (.inr ⟨hidle, rfl, rfl⟩)
  | keyschedCompleted | cipherCompleted => simp at h'
  | _ => exact absurd h' (by simp [h])

end Engine.Move

/-- Settles O26, move by move. -/
theorem subkeyStoreWriters : Obligations.SubkeyStoreWriters := by
  unfold Obligations.SubkeyStoreWriters
  intro s t _ h ht hreset
  have hm := step_move ht h
  exact ⟨hm.sk_written hreset, hm.ksValid_rises⟩

/-- Settles O27, move by move. -/
theorem doutWrittenOnlyByLastStage : Obligations.DoutWrittenOnlyByLastStage := by
  unfold Obligations.DoutWrittenOnlyByLastStage
  intro s t _ h ht hreset
  exact (step_move ht h).dout_written hreset

/-- Settles O28, move by move. -/
theorem doneRisesAndFalls : Obligations.DoneRisesAndFalls := by
  unfold Obligations.DoneRisesAndFalls
  intro s t _ h ht
  have hm := step_move ht h
  exact ⟨hm.done_rises, hm.done_falls⟩

end Sys2Proof.Machine
end

section
/-! What an access and a turn answer, case by case (R32, R55 to R57, R258, R271); and that none faults in a state of the invariant
(log 8). -/

namespace Sys2Proof.Machine

theorem busAccess_read {off : BitVec 6} {size : Nat} (ha : alignedWord off size = true) (s : State) :
    busAccess { port := .window off, size := size, kind := .read } s =
      .next (s.respond (.data (readReg (regAt off) s.engine))) := by
  simp [busAccess, ha]

theorem busAccess_write {off : BitVec 6} {size : Nat} (ha : alignedWord off size = true) (w : Word) (s : State) :
    busAccess { port := .window off, size := size, kind := .write w } s =
      .next ((s.respond .written).onEngine (writeEffect (regAt off) w)) := by
  simp [busAccess, ha, writeReg_eq]

theorem busAccess_malformed {off : BitVec 6} {size : Nat} (ha : alignedWord off size = false) (kind : AccessKind)
    (s : State) : busAccess { port := .window off, size := size, kind := kind } s = .next (s.busErrorAt off) := by
  simp [busAccess, ha]

theorem engineTurn_busy {s : State} (hr : s.ready = true) (hb : s.engine.busy = true) :
    engineTurn s = s.withEngineOutcome (engineStep s.engine) := by
  simp [engineTurn, hr, hb]

theorem engineTurn_unspecified {s : State} (hr : s.ready = false) : engineTurn s = .next (unspecifiedTurn s) := by
  simp [engineTurn, hr]

theorem engineTurn_idle {s : State} (hr : s.ready = true) (hb : s.engine.busy = false) : engineTurn s = .next s := by
  simp [engineTurn, hr, hb]

theorem hostTurn_nil {s : State} (h : s.host = []) : hostTurn s = .next s := by
  simp [hostTurn, h]

theorem afterChoice_of_no_turn {s : State} (h : s.turns = []) : afterChoice s = s := by
  cases s
  cases h
  rfl

/-- Settles O15: the agent that moves is the engine where its turn is listed, and the host where nothing is. -/
theorem idleEngineChangesNothing : Obligations.IdleEngineChangesNothing := by
  unfold Obligations.IdleEngineChangesNothing
  intro s hr hb
  refine ⟨fun ts hts => ?_, fun hts hhost => ?_⟩
  · have hchosen : chosenAgent s = .engine := by simp [chosenAgent, hts]
    rw [step_eq, hchosen, afterChoice, hts]
    exact engineTurn_idle hr hb
  · have hchosen : chosenAgent s = .host := by simp [chosenAgent, hts, defaultAgent, hb]
    rw [step_eq, hchosen, afterChoice_of_no_turn hts]
    exact hostTurn_nil hhost

theorem busAccess_no_fault (a : Access) (s : State) (x : Fault) : busAccess a s ≠ .fault x := by
  obtain ⟨port, size, kind⟩ := a
  cases port with
  | outside addr => simp [busAccess]
  | window off =>
    cases ha : alignedWord off size with
    | false => simp [busAccess_malformed ha]
    | true =>
      cases kind with
      | read => simp [busAccess_read ha]
      | write w => simp [busAccess_write ha]

theorem hostTurn_no_fault (s : State) (x : Fault) : hostTurn s ≠ .fault x := by
  unfold hostTurn
  split
  · simp
  · simp
  · split <;> simp
  · split
    · exact busAccess_no_fault _ _ x
    · simp

/-- R43(a), (b): the engine of a state of the invariant has a step whenever it is busy. -/
theorem engineTurn_no_fault {s : State} (hs : s.Inv) (x : Fault) : engineTurn s ≠ .fault x := by
  cases hr : s.ready with
  | false => simp [engineTurn_unspecified hr]
  | true =>
    cases hb : s.engine.busy with
    | false => simp [engineTurn_idle hr hb]
    | true =>
      obtain ⟨hstatus, -⟩ := hs hr
      obtain ⟨e', he⟩ := engineStep_defined (hstatus.stage_lt hb)
      simp [engineTurn_busy hr hb, he, State.withEngineOutcome]

theorem step_no_fault {s : State} (hs : s.Inv) (x : Fault) : step s ≠ .fault x := by
  rw [step_eq]
  cases chosenAgent s with
  | host => exact hostTurn_no_fault _ x
  | engine => exact engineTurn_no_fault (s := afterChoice s) hs x
  | reset | powerCycle => simp [turnOf]

/-- Settles O21: no step from a state of the invariant faults, and the step leads to another such state. -/
theorem invariantStatesAreSafe : Obligations.InvariantStatesAreSafe := by
  unfold Obligations.InvariantStatesAreSafe
  intro s hs n x
  induction n generalizing s with
  | zero => simp [run_zero]
  | succ n ih =>
    cases h : step s with
    | next t => rw [run_succ n h]; exact ih t (step_keeps_inv hs h)
    | fault y => exact absurd h (step_no_fault hs y)
    | refused y => simp [Host.Core.run, Sys2Proof.core, h]

end Sys2Proof.Machine
end

section
/-! The fields of the STATUS word (R31, R211, R212). -/

namespace Sys2Proof.Machine

/-- R31 as a table, from bit 0 up. The proof takes the single-bit fields one by one, and bits 8 and up by the bounds of their
fields. -/
theorem statusWord_getLsbD (e : Engine) (i : Nat) :
    (statusWord e).getLsbD i =
      if i = 0 then e.busy
      else if i = 1 then e.done
      else if i = 2 then e.ksValid
      else if i = 3 then e.keyHiV
      else if i = 4 then e.keyLoV
      else if i = 5 then e.dinHiV
      else if i = 6 then e.dinLoV
      else if i = 7 then false
      else if i < 10 then (opBits e.op).getLsbD (i - 8)
      else if i < 15 then e.stage.getLsbD (i - 10)
      else if i = 15 then false
      else e.err.getLsbD (i - 16) := by
  have hbeyond : ¬ i < 32 → e.err.getLsbD (i - 16) = false := fun h => BitVec.getLsbD_of_ge _ _ (by omega)
  rw [statusWord, BitVec.getLsbD_setWidth]
  iterate 11 rw [BitVec.getLsbD_append]
  rcases i with _ | _ | _ | _ | _ | _ | _ | _ | i
  iterate 8 simp [flagBit]
  grind

theorem statusWord_op (e : Engine) : (statusWord e).extractLsb' 8 2 = opBits e.op := by
  ext i hi
  simp only [BitVec.getElem_extractLsb', statusWord_getLsbD]
  grind

theorem statusWord_stage (e : Engine) : (statusWord e).extractLsb' 10 5 = e.stage := by
  ext i hi
  simp only [BitVec.getElem_extractLsb', statusWord_getLsbD]
  grind

theorem statusWord_err (e : Engine) : (statusWord e).extractLsb' 16 4 = e.err := by
  ext i hi
  simp only [BitVec.getElem_extractLsb', statusWord_getLsbD]
  grind

theorem statusWord_reserved (e : Engine) : (statusWord e).extractLsb' 20 12 = 0#12 := by
  ext i hi
  simp only [BitVec.getElem_extractLsb', statusWord_getLsbD]
  have : e.err.getLsbD (20 + i - 16) = false := BitVec.getLsbD_of_ge _ _ (by omega)
  grind

/-- Settles O36: the flags and the single reserved bits are entries of the table, the fields its slices. -/
theorem statusWordFields : Obligations.StatusWordFields := by
  unfold Obligations.StatusWordFields
  refine ⟨by decide, fun e => ?_⟩
  exact ⟨statusWord_getLsbD e 0, statusWord_getLsbD e 1, statusWord_getLsbD e 2, statusWord_getLsbD e 3,
    statusWord_getLsbD e 4, statusWord_getLsbD e 5, statusWord_getLsbD e 6, statusWord_getLsbD e 7, statusWord_op e,
    statusWord_stage e, statusWord_getLsbD e 15, statusWord_err e, statusWord_reserved e, fun _ _ => rfl⟩

end Sys2Proof.Machine
end

section
/-! Two states that differ in KEY alone move alike (R21, R205), but at stage 0 of KEYSCHED. -/

namespace Sys2Proof.Machine

/-- The engine with another KEY. -/
def Engine.withKey (e : Engine) (k : Block) : Engine := { e with key := k }

/-- The machine with another KEY in its engine. -/
def State.withKey (s : State) (k : Block) : State := s.onEngine (·.withKey k)

/-- `f` answers two engines that differ in KEY alone with engines that differ in KEY at most. -/
def KeyBlind (f : Engine → Engine) : Prop := ∀ (e : Engine) (k : Block), ∃ k', f (e.withKey k) = (f e).withKey k'

/-! No register reads KEY (R205), and no register write depends on it. -/

theorem readReg_withKey (r : Reg) (e : Engine) (k : Block) : readReg r (e.withKey k) = readReg r e := by
  cases r <;> rfl

theorem keyBlind_inputWrite {f : Engine → Engine} (hf : KeyBlind f) : KeyBlind (inputWrite f) := by
  intro e k
  obtain ⟨hb, h⟩ | ⟨hb, h⟩ := inputWrite_cases f e
  · exact ⟨k, by rw [h, inputWrite, if_pos (show (e.withKey k).busy = true from hb)]; rfl⟩
  · obtain ⟨k', hk⟩ := hf e k
    exact ⟨k', by rw [h, inputWrite, if_neg (show ¬ (e.withKey k).busy = true by simpa [Engine.withKey] using hb), hk]⟩

theorem keyBlind_keyschedVerdict : KeyBlind keyschedVerdict := by
  intro e k
  refine ⟨k, ?_⟩
  unfold keyschedVerdict
  simp only [apply_ite (Engine.withKey · k)]
  rfl

theorem keyBlind_cipherVerdict (op : Op) : KeyBlind (cipherVerdict op) := by
  intro e k
  refine ⟨k, ?_⟩
  unfold cipherVerdict
  simp only [apply_ite (Engine.withKey · k)]
  rfl

theorem keyBlind_commandEffect (i : Instr) : KeyBlind (commandEffect i) := by
  cases i with
  | nop | ack => exact fun _ k => ⟨k, rfl⟩
  | keysched => exact keyBlind_keyschedVerdict
  | encrypt | decrypt => exact keyBlind_cipherVerdict _
  | clear => exact fun _ _ => ⟨0#64, rfl⟩

theorem keyBlind_writeEffect (r : Reg) (w : Word) : KeyBlind (writeEffect r w) := by
  cases r with
  | cmd =>
    unfold writeEffect
    cases decode w with
    | ok i => exact keyBlind_commandEffect i
    | error x => exact fun _ k => ⟨k, rfl⟩
  | keyHi => exact keyBlind_inputWrite fun _ k => ⟨withHi k w, rfl⟩
  | keyLo => exact keyBlind_inputWrite fun _ k => ⟨withLo k w, rfl⟩
  | dinHi | dinLo => exact keyBlind_inputWrite fun _ k => ⟨k, rfl⟩
  | skSel | status | doutHi | doutLo | dbgL | dbgR | dbgC | dbgD | skHi | skLo | id => exact fun _ k => ⟨k, rfl⟩

/-! The engine's own steps. -/

theorem btStep_withKey {dir : Direction} {e e' : Engine} (k : Block) (h : btStep dir e = .next e') :
    btStep dir (e.withKey k) = .next (e'.withKey k) := by
  obtain ⟨h0, rfl⟩ | ⟨i, hi, rfl⟩ | ⟨h17, rfl⟩ := btStep_cases h
  · exact btStep_zero (e := e.withKey k) h0
  · exact btStep_round (e := e.withKey k) i hi
  · exact btStep_final (e := e.withKey k) h17

theorem ksStep_withKey {e e' : Engine} (k : Block) (hstage : e.stage ≠ 0#5) (h : ksStep e = .next e') :
    ksStep (e.withKey k) = .next (e'.withKey k) := by
  obtain ⟨h0, -⟩ | ⟨j, hj, rfl⟩ := ksStep_cases h
  · exact absurd h0 hstage
  · rw [ksStep_rotate (e := e.withKey k) j hj]
    split <;> rfl

theorem engineStep_withKey {e e' : Engine} (k : Block) (hstage : ¬ (e.op = .keysched ∧ e.stage = 0#5))
    (h : engineStep e = .next e') : engineStep (e.withKey k) = .next (e'.withKey k) := by
  obtain ⟨hop, h⟩ | ⟨hop, h⟩ | ⟨hop, h⟩ := engineStep_cases h
  · rw [engineStep_keysched (e := e.withKey k) hop]
    exact ksStep_withKey k (fun h0 => hstage ⟨hop, h0⟩) h
  · rw [engineStep_cipher (e := e.withKey k) (.inl ⟨hop, rfl⟩)]
    exact btStep_withKey k h
  · rw [engineStep_cipher (e := e.withKey k) (.inr ⟨hop, rfl⟩)]
    exact btStep_withKey k h

/-! The turns. -/

/-- The turn `f` answers `s`, and `s` with another KEY, with states that differ in KEY at most. -/
def HidesKey (f : State → Host.Outcome State Fault Refusal) (s : State) : Prop :=
  ∀ (k : Block) (t : State), f s = .next t → ∃ k', f (s.withKey k) = .next (t.withKey k')

theorem busAccess_hidesKey (a : Access) (s : State) : HidesKey (busAccess a) s := by
  intro k t h
  obtain ⟨port, size, kind⟩ := a
  obtain ⟨off, rfl, ⟨ha, rfl⟩ | ⟨ha, rfl, rfl⟩ | ⟨w, ha, rfl, rfl⟩⟩ := busAccess_cases h
  · exact ⟨k, busAccess_malformed ha kind _⟩
  · refine ⟨k, ?_⟩
    rw [busAccess_read ha]
    simp only [State.withKey, onEngine_fields, readReg_withKey]
    rfl
  · obtain ⟨k', hk⟩ := keyBlind_writeEffect (regAt off) w s.engine k
    refine ⟨k', ?_⟩
    rw [busAccess_write ha]
    simp only [State.withKey, State.onEngine, State.respond, hk]

theorem waitPass_withKey (s : State) (rest : List HostOp) (k : Block) :
    waitPass (s.withKey k) rest = (waitPass s rest).withKey k := by
  simp only [waitPass, State.withKey, onEngine_fields, readReg_withKey]
  rfl

theorem hostTurn_hidesKey (s : State) : HidesKey hostTurn s := by
  intro k t h
  obtain ⟨e, ready, turns, host, handler, responses, n⟩ := s
  cases host with
  | nil => cases h; exact ⟨k, rfl⟩
  | cons op rest =>
    cases op with
    | halt => cases h; exact ⟨k, rfl⟩
    | wait =>
      cases ready with
      | false => cases h
      | true => cases h; exact ⟨k, congrArg _ (waitPass_withKey _ rest k)⟩
    | access a =>
      cases ready with
      | false => cases h
      | true => exact busAccess_hidesKey a _ k t h

theorem engineTurn_hidesKey {s : State}
    (hstage : ¬ (s.ready = true ∧ s.engine.busy = true ∧ s.engine.op = .keysched ∧ s.engine.stage = 0#5)) :
    HidesKey engineTurn s := by
  intro k t h
  obtain ⟨hr, hb, e', he, rfl⟩ | ⟨hr, hb, rfl⟩ | ⟨hr, rfl⟩ := engineTurn_cases h
  · have hk := engineStep_withKey k (fun hstage' => hstage ⟨hr, hb, hstage'⟩) he
    exact ⟨k, (engineTurn_busy (s := s.withKey k) hr hb).trans (congrArg _ hk)⟩
  · exact ⟨k, engineTurn_idle (s := t.withKey k) hr hb⟩
  · exact ⟨(Config.unspecifiedEngine s.powerUps).key, engineTurn_unspecified (s := s.withKey k) hr⟩

theorem turnOf_hidesKey (a : Agent) {s : State}
    (hstage : ¬ (a = .engine ∧ s.ready = true ∧ s.engine.busy = true ∧ s.engine.op = .keysched ∧ s.engine.stage = 0#5)) :
    HidesKey (turnOf a) s := by
  cases a with
  | host => exact hostTurn_hidesKey s
  | engine => exact engineTurn_hidesKey fun h => hstage ⟨rfl, h⟩
  | reset => intro k t h; cases h; exact ⟨0#64, rfl⟩
  | powerCycle => intro k t h; cases h; exact ⟨(Config.unspecifiedEngine s.powerUps).key, rfl⟩

theorem chosenAgent_withKey (s : State) (k : Block) : chosenAgent (s.withKey k) = chosenAgent s := rfl

theorem afterChoice_withKey (s : State) (k : Block) : afterChoice (s.withKey k) = (afterChoice s).withKey k := rfl

/-- Settles O29: the same agent moves in both states, and its turn hides KEY. -/
theorem keyInvisibleButToStageZero : Obligations.KeyInvisibleButToStageZero := by
  unfold Obligations.KeyInvisibleButToStageZero
  intro s t k hstage h
  rw [step_eq] at h
  obtain ⟨k', hk⟩ := turnOf_hidesKey (chosenAgent s) (s := afterChoice s) hstage k t h
  refine ⟨t.withKey k', ?_, k', rfl⟩
  rw [← hk, ← afterChoice_withKey, ← chosenAgent_withKey s k]
  exact step_eq (s.withKey k)

end Sys2Proof.Machine
end

section
/-! The register window (R51, R52, R54 to R57 of 20_memory.md): every aligned offset is a register's, and what the bus answers to a
well-formed and to a malformed access. -/

namespace Sys2Proof.Machine

/-- R51, R52: each of the sixteen aligned offsets is that of the register it names. -/
theorem offsetOf_regAt {off : BitVec 6} (h : off.extractLsb' 0 2 = 0#2) : offsetOf (regAt off) = off := by
  revert off
  decide

/-- Settles O30: the map is read off, and the two directions are `regAt_offsetOf` and `offsetOf_regAt`. -/
theorem registerMap : Obligations.RegisterMap := by
  unfold Obligations.RegisterMap
  exact ⟨by decide, regAt_offsetOf, fun _ => offsetOf_regAt⟩

theorem alignedWord_of_aligned {off : BitVec 6} (h : off.extractLsb' 0 2 = 0#2) : alignedWord off 4 = true := by
  simp [alignedWord, h]

theorem alignedWord_of_malformed {off : BitVec 6} {size : Nat} (h : size ≠ 4 ∨ off.extractLsb' 0 2 ≠ 0#2) :
    alignedWord off size = false := by
  simpa only [alignedWord, Bool.and_eq_false_iff, beq_eq_false_iff_ne] using h

/-- Settles O32: an aligned access of 4 bytes is well formed, and `busAccess_read` is the answer to such a read. -/
theorem readsAnswerAndChangeNothing : Obligations.ReadsAnswerAndChangeNothing := by
  unfold Obligations.ReadsAnswerAndChangeNothing
  intro s off hoff
  exact busAccess_read (alignedWord_of_aligned hoff) s

/-- Settles O33: such a write is the register's rule, and by `writeReg_eq` every rule is an operation on the engine alone. -/
theorem writesApplyTheRegisterRule : Obligations.WritesApplyTheRegisterRule := by
  unfold Obligations.WritesApplyTheRegisterRule
  intro s off w hoff
  have hwrite := busAccess_write (alignedWord_of_aligned hoff) w s
  exact ⟨hwrite.trans (writeReg_eq (regAt off) w (s.respond .written)).symm, writeEffect (regAt off) w s.engine, hwrite⟩

/-- Settles O34: the answer is the state `busErrorAt`, whose fields are those asked for. -/
theorem malformedAccessGivesBusError : Obligations.MalformedAccessGivesBusError := by
  unfold Obligations.MalformedAccessGivesBusError
  intro s off size k hmalformed
  refine ⟨s.busErrorAt off, busAccess_malformed (alignedWord_of_malformed hmalformed) k s, ?_⟩
  simp only [busErrorAt_fields, true_and]
  exact ⟨fun hnone => by rw [hnone]; rfl, fun ops hsome => by rw [hsome]; rfl⟩

end Sys2Proof.Machine
end

section
/-! The bit and byte order of the 64-bit registers (R60, R61 of 20_memory.md). -/

namespace Sys2Proof.Machine

/-- The slice of `len` bits from machine bit `start` up, by DES bits: it begins after the DES bits above it. -/
theorem dbit_extractLsb' {n start len j : Nat} (v : BitVec n) (hfits : start + len ≤ n) (hj : 1 ≤ j ∧ j ≤ len) :
    dbit (v.extractLsb' start len) j = dbit v (n - (start + len) + j) := by
  have hin : len - j < len := by omega
  have hplace : n - (n - (start + len) + j) = start + (len - j) := by omega
  simp only [dbit, BitVec.getLsbD_extractLsb', hin, decide_true, Bool.true_and, hplace]

theorem dbit_hiWord (v : Block) {i : Nat} (hi : 1 ≤ i ∧ i ≤ 32) : dbit (hiWord v) i = dbit v i := by
  rw [hiWord, dbit_extractLsb' v (by decide) hi]
  simp

theorem dbit_loWord (v : Block) {i : Nat} (hi : 1 ≤ i ∧ i ≤ 32) : dbit (loWord v) i = dbit v (32 + i) :=
  dbit_extractLsb' v (by decide) hi

theorem dbit_byteOfBlock (v : Block) (i : Fin 8) {j : Nat} (hj : 1 ≤ j ∧ j ≤ 8) :
    dbit (byteOfBlock v i) j = dbit v (8 * i.val + j) := by
  have habove : 64 - (56 - 8 * i.val + 8) = 8 * i.val := by omega
  rw [byteOfBlock, dbit_extractLsb' v (by omega) hj, habove]

/-! The words of a 64-bit value are its halves in the sense of R166. -/

@[simp] theorem hiWord_append (a b : Word) : hiWord (a ++ b) = a := leftHalf_append a b

@[simp] theorem loWord_append (a b : Word) : loWord (a ++ b) = b := rightHalf_append a b

theorem hiWord_append_loWord (v : Block) : hiWord v ++ loWord v = v := leftHalf_append_rightHalf (w := 32) v

/-- Settles O41: both words and the bytes are slices, so `dbit_extractLsb'` places their bits. -/
theorem bitAndByteOrder : Obligations.BitAndByteOrder := by
  unfold Obligations.BitAndByteOrder
  refine ⟨fun v i h1 h32 => ?_, hiWord_append_loWord, fun v i j h1 h8 => dbit_byteOfBlock v i ⟨h1, h8⟩, by decide⟩
  exact ⟨dbit_hiWord v ⟨h1, h32⟩, dbit_loWord v ⟨h1, h32⟩⟩

end Sys2Proof.Machine
end

section
/-! Register writes done twice (R59 of 20_memory.md). -/

namespace Sys2Proof.Machine

@[simp] theorem withHi_withHi (v : Block) (w w' : Word) : withHi (withHi v w) w' = withHi v w' := by simp [withHi]

@[simp] theorem withLo_withLo (v : Block) (w w' : Word) : withLo (withLo v w) w' = withLo v w' := by simp [withLo]

/-- An input write is idempotent when the accepted write is and leaves BUSY alone: the second write then meets the same verdict. -/
theorem inputWrite_inputWrite {f : Engine → Engine} {e : Engine} (hbusy : (f e).busy = e.busy) (hf : f (f e) = f e) :
    inputWrite f (inputWrite f e) = inputWrite f e := by
  obtain ⟨hb, h⟩ | ⟨hb, h⟩ := inputWrite_cases f e <;> rw [h]
  · simp [inputWrite, hb, reject]
  · simp [inputWrite, hbusy, hb, hf]

theorem writeEffect_writeEffect {r : Reg} (hr : r ≠ .cmd) (w : Word) (e : Engine) :
    writeEffect r w (writeEffect r w e) = writeEffect r w e := by
  cases r with
  | cmd => exact absurd rfl hr
  | keyHi => exact inputWrite_inputWrite (by simp) (by simp [writeKeyHi])
  | keyLo => exact inputWrite_inputWrite (by simp) (by simp [writeKeyLo])
  | dinHi => exact inputWrite_inputWrite (by simp) (by simp [writeDinHi])
  | dinLo => exact inputWrite_inputWrite (by simp) (by simp [writeDinLo])
  | skSel | status | doutHi | doutLo | dbgL | dbgR | dbgC | dbgD | skHi | skLo | id => rfl

theorem cipherVerdict_accepted (op : Op) {e : Engine} (hb : e.busy = false) (hhi : e.dinHiV = true) (hlo : e.dinLoV = true)
    (hks : e.ksValid = true) : cipherVerdict op e = acceptCommand op e := by
  simp [cipherVerdict, hb, hhi, hlo, hks]

theorem cipherVerdict_busy (op : Op) {e : Engine} (hb : e.busy = true) : cipherVerdict op e = reject errBusy e := by
  simp [cipherVerdict, hb]

/-- A write of the word 2 to CMD is ENCRYPT (R82). -/
theorem writeReg_encrypt (s : State) : writeReg .cmd 2#32 s = .next (s.onEngine (cipherVerdict .encrypt)) :=
  writeReg_eq .cmd 2#32 s

/-- Settles O40: the effect of a write done twice is that of the write, and an accepted ENCRYPT leaves the engine busy. -/
theorem writesAreIdempotentButCommands : Obligations.WritesAreIdempotentButCommands := by
  unfold Obligations.WritesAreIdempotentButCommands
  constructor
  · intro s t r w hr h
    rw [writeReg_eq] at h
    cases h
    simp only [writeReg_eq, State.onEngine, writeEffect_writeEffect hr]
  · intro s hb hhi hlo hks
    refine ⟨s.onEngine (acceptCommand .encrypt), ?_, by simp, by simp, ?_⟩
    · simp only [writeReg_encrypt, State.onEngine, cipherVerdict_accepted .encrypt hb hhi hlo hks]
    · rw [writeReg_encrypt, State.onEngine, cipherVerdict_busy .encrypt (by simp)]
      rfl

end Sys2Proof.Machine
end

section
/-! Decoding and encoding (R80 to R85 of 30_encoding.md): a word is its two fields, so it decodes to a command exactly when it is
the command's encoding. -/

namespace Sys2Proof

/-- R80: the fields RSVD and OPC make up the word. -/
theorem word_eq_iff_fields (w v : Word) : w = v ↔ rsvdField w = rsvdField v ∧ opcField w = opcField v := by
  refine ⟨fun h => h ▸ ⟨rfl, rfl⟩, fun ⟨hrsvd, hopc⟩ => ?_⟩
  rw [← BitVec.toNat_inj, rsvdField_toNat, rsvdField_toNat] at hrsvd
  rw [← BitVec.toNat_inj, opcField_toNat, opcField_toNat] at hopc
  rw [← BitVec.toNat_inj]
  omega

theorem decode_eq_ok_iff_fields (w : Word) (i : Instr) :
    decode w = .ok i ↔ rsvdField w = 0#28 ∧ opcField w = opcodeOf i := by
  rw [← opcodeMap_ok_iff, decode]
  split <;> simp [*]

theorem decode_eq_ok_iff (w : Word) (i : Instr) : decode w = .ok i ↔ w = encode i := by
  rw [decode_eq_ok_iff_fields, word_eq_iff_fields, encode_rsvd, encode_opc]

/-- R82: the opcode map refuses exactly the opcodes above 5. -/
theorem exists_opcodeMap_eq_error_iff (opc : BitVec 4) : (∃ x, opcodeMap opc = .error x) ↔ 5 < opc.toNat := by
  unfold opcodeMap
  split
  case h_7 =>
    have habove : 5 < opc.toNat := by grind
    exact iff_of_true ⟨_, rfl⟩ habove
  all_goals simp; omega

/-- R84: what the decoder refuses. -/
theorem exists_decode_eq_error_iff (w : Word) :
    (∃ x, decode w = .error x) ↔ w.toNat / 16 ≠ 0 ∨ 5 < w.toNat % 16 := by
  rw [decode, ← opcField_toNat, ← exists_opcodeMap_eq_error_iff, ne_eq, ← rsvdField_eq_zero]
  split <;> simp [*]

/-- Settles O2: both directions for a command, and the refused words. -/
theorem decodeEncodeAgree : Obligations.DecodeEncodeAgree := by
  unfold Obligations.DecodeEncodeAgree
  intro w
  refine ⟨fun i => ?_, exists_decode_eq_error_iff w⟩
  rw [← decode_eq_ok_iff]
  exact and_iff_right rfl

/-- Settles O1: the ten words are decoded one by one. -/
theorem commandWordsDecode : Obligations.CommandWordsDecode := by
  unfold Obligations.CommandWordsDecode
  exact ⟨rfl, rfl, rfl, rfl, rfl, rfl, rfl, rfl, rfl, rfl⟩

end Sys2Proof
end

section
/-! The host's turn (R55, R56, R86 to R88): who moves, and what the host's next operation answers. A write to CMD runs the command
it spells (R85) or sets ERR (R84). -/

namespace Sys2Proof.Machine

theorem step_listed {s : State} {a : Agent} {ts : List Agent} (ht : s.turns = a :: ts) :
    step s = turnOf a { s with turns := ts } := by
  rw [step, nextTurn, ht]

theorem step_idle {s : State} (ht : s.turns = []) (hb : s.engine.busy = false) : step s = hostTurn s := by
  have hhost : chosenAgent s = .host := by simp [chosenAgent, ht, defaultAgent, hb]
  rw [step_eq, hhost, afterChoice_of_no_turn ht, turnOf]

theorem hostTurn_halt {s : State} {rest : List HostOp} (hh : s.host = .halt :: rest) :
    hostTurn s = .next { s with host := [] } := by
  simp only [hostTurn, hh]

/-- R87: the loop stays exactly while BUSY = 1. -/
theorem hostTurn_wait {s : State} {rest : List HostOp} (hr : s.ready = true) (hh : s.host = .wait :: rest) :
    hostTurn s = .next { s with
      host := if s.engine.busy then .wait :: rest else rest
      responses := .data (readReg .status s.engine) :: s.responses } := by
  have hbusy : (readReg .status s.engine).getLsbD 0 = s.engine.busy := statusWord_busy s.engine
  simp only [hostTurn, hh, hr, if_true, waitPass, hbusy]

theorem hostTurn_wr {s : State} {r : Reg} {w : Word} {rest : List HostOp} (hr : s.ready = true)
    (hh : s.host = wr r w :: rest) :
    hostTurn s = .next { s with
      host := rest, responses := .written :: s.responses, engine := writeEffect r w s.engine } := by
  have haccess : hostTurn s =
      busAccess { port := .window (offsetOf r), size := 4, kind := .write w } { s with host := rest } := by
    simp only [hostTurn, hh, wr, hr, if_true]
  rw [haccess, busAccess_write (alignedWord_offsetOf r), regAt_offsetOf]
  rfl

theorem writeEffect_cmd_ok {w : Word} {i : Instr} (hd : decode w = .ok i) (e : Engine) :
    writeEffect .cmd w e = commandEffect i e := by
  simp only [writeEffect, hd]

theorem writeEffect_cmd_error {w : Word} {x : DecodeError} (hd : decode w = .error x) (e : Engine) :
    writeEffect .cmd w e = reject errIllegalCommand e := by
  simp only [writeEffect, hd]

/-- R85: a write of a command's word to CMD is the command. -/
theorem hostTurn_command {s : State} {w : Word} {i : Instr} {rest : List HostOp} (hr : s.ready = true)
    (hh : s.host = wr .cmd w :: rest) (hd : decode w = .ok i) :
    hostTurn s = exec i { s with host := rest, responses := .written :: s.responses } := by
  rw [hostTurn_wr hr hh, writeEffect_cmd_ok hd, exec_eq]
  rfl

theorem tableWord_toNat (w : Word) : tableWord 32 w.toNat = w := by
  rw [tableWord, Nat.mod_eq_of_lt w.isLt, BitVec.ofNat_toNat, BitVec.setWidth_eq]

/-- Settles O3: a listed turn of the host, its turn by default, and the turn that `withFetchWord` lists. -/
theorem stepRunsWrittenCommand : Obligations.StepRunsWrittenCommand := by
  unfold Obligations.StepRunsWrittenCommand
  intro s w i rest hd
  refine ⟨fun ts hr hh ht => ?_, fun hr hh ht hb => ?_, ?_⟩
  · rw [step_listed ht]
    exact hostTurn_command hr hh hd
  · rw [step_idle ht hb]
    exact hostTurn_command hr hh hd
  · have hd' : decode (tableWord 32 w.toNat) = .ok i := by rw [tableWord_toNat, hd]
    exact hostTurn_command (s := { s.withFetchWord 32 w.toNat with turns := s.turns }) rfl rfl hd'

/-- Settles O4: the decoder refuses the word, and the write is then a rejection whether or not the engine is busy. -/
theorem illegalWordSetsErrOnly : Obligations.IllegalWordSetsErrOnly := by
  unfold Obligations.IllegalWordSetsErrOnly
  intro s w rest ts hr hh ht hillegal
  obtain ⟨x, hd⟩ := (exists_decode_eq_error_iff w).2 hillegal
  have hwrite := hostTurn_wr (s := { s with turns := ts }) hr hh
  rw [writeEffect_cmd_error hd] at hwrite
  rw [step_listed ht]
  exact hwrite

end Sys2Proof.Machine
end

section
/-! The pseudo-operations of the host (R87, R88) as runs, with no turn listed and the engine idle (logs 1 and 2). -/

namespace Sys2Proof.Machine

theorem withLo_withHi_words (v k : Block) : withLo (withHi v (hiWord k)) (loWord k) = k := by
  rw [withLo, withHi, hiWord_append, hiWord_append_loWord]

/-- R219, R220: SK_HI and SK_LO join to the selected subkey. -/
theorem rdskValue_readReg (e : Engine) : rdskValue (readReg .skHi e) (readReg .skLo e) = selectedSubkey e := by
  simp only [rdskValue, readReg]
  generalize selectedSubkey e = k
  have hhi : ((k.extractLsb' 32 16).setWidth 32).extractLsb' 0 16 = k.extractLsb' 32 16 := by
    rw [BitVec.extractLsb'_setWidth_of_le (by decide), BitVec.extractLsb'_eq_self]
  rw [hhi]
  exact (BitVec.extractLsb'_append_extractLsb'_eq_extractLsb' rfl).trans BitVec.extractLsb'_eq_self

theorem inputWrite_idle {f : Engine → Engine} {e : Engine} (hb : e.busy = false) : inputWrite f e = f e := by
  simp [inputWrite, hb]

section
variable {s : State} {r r' : Reg} {rest : List HostOp}

/-- Two writes, the first of which leaves the engine idle. -/
theorem run_wr_wr {w w' : Word} (hr : s.ready = true) (ht : s.turns = []) (hb : s.engine.busy = false)
    (hb' : (writeEffect r w s.engine).busy = false) (hh : s.host = wr r w :: wr r' w' :: rest) :
    Sys2Proof.core.run 2 s = .next { s with
      host := rest
      responses := .written :: .written :: s.responses
      engine := writeEffect r' w' (writeEffect r w s.engine) } :=
  (run_succ 1 (step_wr hr ht hb hh)).trans (run_one (step_wr hr ht hb' rfl))

theorem run_rd_rd (hr : s.ready = true) (ht : s.turns = []) (hb : s.engine.busy = false)
    (hh : s.host = rd r :: rd r' :: rest) :
    Sys2Proof.core.run 2 s = .next { s with
      host := rest
      responses := .data (readReg r' s.engine) :: .data (readReg r s.engine) :: s.responses } :=
  (run_succ 1 (step_rd hr ht hb hh)).trans (run_one (step_rd hr ht hb rfl))

end

theorem writeEffect_ldkey (k : Block) {e : Engine} (hb : e.busy = false) :
    writeEffect .keyLo (loWord k) (writeEffect .keyHi (hiWord k) e) =
      { e with key := k, keyHiV := true, keyLoV := true, ksValid := false } := by
  simp [writeEffect, inputWrite_idle, hb, writeKeyHi, writeKeyLo, withLo_withHi_words]

theorem writeEffect_ldblk (b : Block) {e : Engine} (hb : e.busy = false) :
    writeEffect .dinLo (loWord b) (writeEffect .dinHi (hiWord b) e) =
      { e with din := b, dinHiV := true, dinLoV := true } := by
  simp [writeEffect, inputWrite_idle, hb, writeDinHi, writeDinLo, withLo_withHi_words]

/-- R35, R218: the selector value j - 1 of `rdsk j`. -/
theorem writeEffect_selector (j : Fin 16) (e : Engine) :
    writeEffect .skSel (BitVec.ofNat 32 j.val) e = { e with skSel := BitVec.ofNat 4 j.val } := by
  have hsel : (BitVec.ofNat 32 j.val).extractLsb' 0 4 = BitVec.ofNat 4 j.val := by
    revert j; decide
  rw [writeEffect, writeSkSel, hsel]

theorem selectedSubkey_selector (j : Fin 16) (e : Engine) :
    selectedSubkey { e with skSel := BitVec.ofNat 4 j.val } = e.sk[j] := by
  have hsel : (BitVec.ofNat 4 j.val).toFin = j := by
    revert j; decide
  simp only [selectedSubkey, hsel]

/-- Settles O45: each expansion is a run of the accesses it lists, and the words read join to the value. -/
theorem hostPseudoOperations : Obligations.HostPseudoOperations := by
  unfold Obligations.HostPseudoOperations
  intro s rest hr
  refine ⟨fun ht hb => ⟨fun k hh => ?_, fun b hh => ?_, fun hh => ?_, fun j hh => ?_, fun hh => ?_⟩, fun ts ht hh => ?_⟩
  · rw [← writeEffect_ldkey k hb]
    exact run_wr_wr hr ht hb (by simp [writeEffect, inputWrite_idle, hb]) hh
  · rw [← writeEffect_ldblk b hb]
    exact run_wr_wr hr ht hb (by simp [writeEffect, inputWrite_idle, hb]) hh
  · exact ⟨_, _, hiWord_append_loWord s.engine.dout, run_rd_rd hr ht hb hh⟩
  · have hselect := step_wr hr ht hb hh
    rw [Nat.add_sub_cancel, writeEffect_selector] at hselect
    refine ⟨_, _, ?_, (run_succ 2 hselect).trans (run_rd_rd hr ht hb rfl)⟩
    rw [rdskValue_readReg, selectedSubkey_selector]
  · rw [step_idle ht hb]
    exact hostTurn_halt hh
  · rw [step_listed ht]
    exact hostTurn_wait (s := { s with turns := ts }) hr hh

end Sys2Proof.Machine
end

section
/-! KEYSCHED at the CMD write (R101), and what the commands leave unchanged (R101, R121, R134, R200, R202, R242). -/

namespace Sys2Proof.Machine

theorem keyschedVerdict_accepted {e : Engine} (hb : e.busy = false) (hhi : e.keyHiV = true) (hlo : e.keyLoV = true) :
    keyschedVerdict e = acceptKeysched e := by
  simp [keyschedVerdict, hb, hhi, hlo]

theorem keyschedVerdict_incomplete {e : Engine} (hb : e.busy = false) (hkey : e.keyHiV = false ∨ e.keyLoV = false) :
    keyschedVerdict e = reject errInvalidInputLength e := by
  obtain hhi | hlo := hkey
  · simp [keyschedVerdict, hb, hhi]
  · simp [keyschedVerdict, hb, hlo]

/-- Settles O9: the two verdicts on an idle engine. -/
theorem keyschedAcceptance : Obligations.KeyschedAcceptance := by
  unfold Obligations.KeyschedAcceptance
  intro s hb
  refine ⟨fun hhi hlo => ?_, fun hkey => ?_⟩
  · rw [exec_eq, State.onEngine, commandEffect, keyschedVerdict_accepted hb hhi hlo]
    rfl
  · rw [exec_eq, State.onEngine, commandEffect, keyschedVerdict_incomplete hb hkey]
    rfl

theorem cipherVerdict_rejects_or_accepts (op : Op) (e : Engine) :
    (∃ code, cipherVerdict op e = reject code e) ∨ cipherVerdict op e = acceptCommand op e := by
  obtain ⟨-, h⟩ | ⟨-, -, -, -, h⟩ | ⟨-, -, h⟩ | ⟨-, -, -, -, h⟩ := cipherVerdict_cases op e
  · exact .inl ⟨_, h⟩
  · exact .inr h
  · exact .inl ⟨_, h⟩
  · exact .inl ⟨_, h⟩

/-- Everything a command other than CLEAR can do to the engine. -/
theorem commandEffect_cases {i : Instr} (hi : i ≠ .clear) (e : Engine) :
    (i = .nop ∧ commandEffect i e = e) ∨
    (i = .ack ∧ commandEffect i e = acknowledge e) ∨
    (i ≠ .nop ∧ i ≠ .ack ∧ ∃ code, commandEffect i e = reject code e) ∨
    (i = .keysched ∧ commandEffect i e = acceptKeysched e) ∨
    ((i = .encrypt ∨ i = .decrypt) ∧ ∃ op, commandEffect i e = acceptCommand op e) := by
  cases i with
  | nop => exact .inl ⟨rfl, rfl⟩
  | ack => exact .inr (.inl ⟨rfl, rfl⟩)
  | clear => exact absurd rfl hi
  | keysched =>
    obtain ⟨-, h⟩ | ⟨-, -, -, h⟩ | ⟨-, -, h⟩ := keyschedVerdict_cases e
    · exact .inr (.inr (.inl ⟨by simp, by simp, _, h⟩))
    · exact .inr (.inr (.inr (.inl ⟨rfl, h⟩)))
    · exact .inr (.inr (.inl ⟨by simp, by simp, _, h⟩))
  | encrypt =>
    obtain h | h := cipherVerdict_rejects_or_accepts .encrypt e
    · exact .inr (.inr (.inl ⟨by simp, by simp, h⟩))
    · exact .inr (.inr (.inr (.inr ⟨.inl rfl, _, h⟩)))
  | decrypt =>
    obtain h | h := cipherVerdict_rejects_or_accepts .decrypt e
    · exact .inr (.inr (.inl ⟨by simp, by simp, h⟩))
    · exact .inr (.inr (.inr (.inr ⟨.inr rfl, _, h⟩)))

/-- `e'` has the data of `e`: the registers that hold keys, blocks, halves and subkeys, their validity bits and the selector. -/
def Engine.SameData (e e' : Engine) : Prop :=
  e'.key = e.key ∧ e'.keyHiV = e.keyHiV ∧ e'.keyLoV = e.keyLoV ∧ e'.din = e.din ∧ e'.dinHiV = e.dinHiV ∧
  e'.dinLoV = e.dinLoV ∧ e'.dout = e.dout ∧ e'.c = e.c ∧ e'.d = e.d ∧ e'.l = e.l ∧ e'.r = e.r ∧ e'.sk = e.sk ∧
  e'.skSel = e.skSel

section
variable {i : Instr} (e : Engine)

theorem commandEffect_sameData (hi : i ≠ .clear) : e.SameData (commandEffect i e) := by
  obtain ⟨-, h⟩ | ⟨-, h⟩ | ⟨-, -, _, h⟩ | ⟨-, h⟩ | ⟨-, _, h⟩ := commandEffect_cases hi e
  all_goals simp [h, Engine.SameData]

theorem commandEffect_ksValid (hi : i ≠ .clear) (hks : i ≠ .keysched) : (commandEffect i e).ksValid = e.ksValid := by
  obtain ⟨-, h⟩ | ⟨-, h⟩ | ⟨-, -, _, h⟩ | ⟨rfl, -⟩ | ⟨-, _, h⟩ := commandEffect_cases hi e
  case inr.inr.inr.inl => exact absurd rfl hks
  all_goals simp [h]

theorem commandEffect_progress (hi : i = .nop ∨ i = .ack) :
    (commandEffect i e).busy = e.busy ∧ (commandEffect i e).op = e.op ∧ (commandEffect i e).stage = e.stage := by
  obtain rfl | rfl := hi <;> simp [commandEffect]

/-- R242: a command that sets ERR is a rejection. -/
theorem commandEffect_sets_err (hi : i ≠ .clear) (hack : i ≠ .ack) (herr : (commandEffect i e).err ≠ e.err) :
    ∃ code, commandEffect i e = reject code e := by
  obtain ⟨-, h⟩ | ⟨rfl, -⟩ | ⟨-, -, h⟩ | ⟨-, h⟩ | ⟨-, _, h⟩ := commandEffect_cases hi e
  case inr.inl => exact absurd rfl hack
  case inr.inr.inl => exact h
  all_goals exact absurd (by simp [h]) herr

end

/-- Settles O12: a command is an operation on the engine alone, and each clause on the engine is a lemma about that operation. -/
theorem commandFrame : Obligations.CommandFrame := by
  unfold Obligations.CommandFrame
  intro i s t h
  rw [exec_eq] at h
  cases h
  refine ⟨⟨rfl, rfl, rfl, rfl, rfl, rfl⟩, commandEffect_sameData s.engine, commandEffect_ksValid s.engine,
    commandEffect_progress s.engine, ?_, fun hi herr hack => ?_⟩
  · rintro rfl
    exact ⟨rfl, rfl⟩
  · obtain ⟨code, h⟩ := commandEffect_sets_err s.engine hi hack herr
    simp [h]

end Sys2Proof.Machine
end

section
/-! The key schedule as a function of the key (R102, R103, R108 to R111 of 40_key_schedule.md). -/

namespace Sys2Proof.Machine

/-- Settles O49: the recursion of the halves, and the subkey of each stage. -/
theorem subkeysFollowTheSchedule : Obligations.SubkeysFollowTheSchedule := by
  unfold Obligations.SubkeysFollowTheSchedule
  intro key s
  exact ⟨rfl, keyHalvesAfter_succ key s, deriveSubkeys_getElem key s⟩

/-! R110: the rotations of the sixteen stages add up to one full turn. -/

/-- R162 by DES bits: the rotation reads `k` places further on, cyclically. -/
theorem getMsbD_rotl {w : Nat} (v : BitVec w) (k i : Nat) :
    (rotl v k).getMsbD i = (decide (i < w) && v.getMsbD ((k + i) % w)) :=
  BitVec.getMsbD_rotateLeft

theorem rotl_rotl {w : Nat} (v : BitVec w) (a b : Nat) : rotl (rotl v a) b = rotl v (a + b) := by
  refine BitVec.eq_of_getMsbD_eq fun i hi => ?_
  have hin : (b + i) % w < w := Nat.mod_lt _ (by omega)
  have hplace : (a + (b + i) % w) % w = (a + b + i) % w := by rw [Nat.add_mod_mod, Nat.add_assoc]
  simp only [getMsbD_rotl, hi, hin, hplace, decide_true, Bool.true_and]

theorem rotl_width {w : Nat} (v : BitVec w) : rotl v w = v := by
  refine BitVec.eq_of_getMsbD_eq fun i hi => ?_
  simp only [getMsbD_rotl, hi, decide_true, Bool.true_and, Nat.add_mod_left, Nat.mod_eq_of_lt hi]

theorem rotl_zero {w : Nat} (v : BitVec w) : rotl v 0 = v := by
  refine BitVec.eq_of_getMsbD_eq fun i hi => ?_
  simp only [getMsbD_rotl, hi, decide_true, Bool.true_and, Nat.zero_add, Nat.mod_eq_of_lt hi]

/-- The amounts of the first `n` stages, added up. -/
def shiftsUpTo (n : Nat) : Nat := (shifts.toList.take n).sum

theorem shiftsUpTo_succ (s : Fin 16) : shiftsUpTo (s.val + 1) = shiftsUpTo s.val + shifts[s] := by
  revert s; decide

/-- The halves after stage n are those of PC-1, rotated by the amounts so far. -/
theorem keyHalvesAfter_eq_rotl (key : Block) {n : Nat} (hn : n ≤ 16) :
    keyHalvesAfter key n = (rotl (pc1Split key).1 (shiftsUpTo n), rotl (pc1Split key).2 (shiftsUpTo n)) := by
  induction n with
  | zero => rw [show shiftsUpTo 0 = 0 from rfl, rotl_zero, rotl_zero, keyHalvesAfter]
  | succ n ih =>
    have hstage := keyHalvesAfter_succ key ⟨n, hn⟩
    rw [ih (by omega)] at hstage
    rw [hstage, rotateHalves, rotl_rotl, rotl_rotl, ← shiftsUpTo_succ ⟨n, hn⟩]

theorem keyHalvesAfter_last (key : Block) : keyHalvesAfter key 16 = pc1Split key := by
  rw [keyHalvesAfter_eq_rotl key le_rfl, show shiftsUpTo 16 = 28 from rfl, rotl_width, rotl_width]

/-- Settles O48: the amounts add up to the width of C and D. -/
theorem keyHalvesReturn : Obligations.KeyHalvesReturn := by
  unfold Obligations.KeyHalvesReturn
  exact ⟨by decide, keyHalvesAfter_last⟩

/-! R111: PC-1 passes over the parity positions, and the schedule sees the key through PC-1 alone. -/

theorem permute_congr {n m : Nat} {T : PermTable n m} {v v' : BitVec n}
    (h : ∀ j : Fin m, dbit v T.entries[j] = dbit v' T.entries[j]) : permute T v = permute T v' := by
  simp only [permute, h]

/-- `m` has no bit at a DES position that is not a parity position. -/
theorem dbit_of_parityMask {m : Block} (hm : m &&& ~~~0x0101010101010101#64 = 0#64) {t : Nat}
    (ht : dbit (0x0101010101010101#64) t = false) (hpos : 1 ≤ t) : dbit m t = false := by
  have hbit : dbit (m &&& ~~~0x0101010101010101#64) t = false := by rw [hm]; simp [dbit]
  have hin : 64 - t < 64 := by omega
  simp only [dbit] at ht hbit ⊢
  simpa only [BitVec.getLsbD_and, BitVec.getLsbD_not, ht, hin, decide_true, Bool.not_false, Bool.and_true] using hbit

theorem pc1Table_avoids_parity (j : Fin 56) :
    1 ≤ pc1Table.entries[j] ∧ dbit (0x0101010101010101#64) pc1Table.entries[j] = false := by
  revert j; decide

theorem pc1Split_xor_parity {m : Block} (hm : m &&& ~~~0x0101010101010101#64 = 0#64) (k : Block) :
    pc1Split (k ^^^ m) = pc1Split k := by
  have hpc1 : permute pc1Table (k ^^^ m) = permute pc1Table k := permute_congr fun j => by
    obtain ⟨hpos, hmask⟩ := pc1Table_avoids_parity j
    have hzero := dbit_of_parityMask hm hmask hpos
    simp only [dbit] at hzero ⊢
    rw [BitVec.getLsbD_xor, hzero, Bool.xor_false]
  rw [pc1Split, hpc1, pc1Split]

theorem keyHalvesAfter_congr {k k' : Block} (h : pc1Split k = pc1Split k') (n : Nat) :
    keyHalvesAfter k n = keyHalvesAfter k' n := by
  induction n with
  | zero => exact h
  | succ n ih => simp only [keyHalvesAfter, ih]

theorem deriveSubkeys_congr {k k' : Block} (h : pc1Split k = pc1Split k') : deriveSubkeys k = deriveSubkeys k' := by
  simp only [deriveSubkeys, keyHalvesAfter_congr h]

/-- Settles O47: no entry of PC-1 is a parity position. -/
theorem parityBitsUnused : Obligations.ParityBitsUnused := by
  unfold Obligations.ParityBitsUnused
  intro k m hm
  exact deriveSubkeys_congr (pc1Split_xor_parity hm k)

end Sys2Proof.Machine
end

section
/-! The stages of KEYSCHED (R104, R105): one engine step, the run of all seventeen, and what the completing step of any command
leaves in every interleaving (R109, R110, R131). -/

namespace Sys2Proof.Machine

theorem step_engine_next {s : State} {ts : List Agent} {e' : Engine} (hr : s.ready = true) (ht : s.turns = .engine :: ts)
    (hb : s.engine.busy = true) (he : engineStep s.engine = .next e') :
    step s = .next { s with turns := ts, engine := e' } := by
  rw [step_engine hr ht hb, he]
  rfl

theorem step_busy_next {s : State} {e' : Engine} (hr : s.ready = true) (ht : s.turns = []) (hb : s.engine.busy = true)
    (he : engineStep s.engine = .next e') : step s = .next { s with engine := e' } := by
  rw [step_busy hr ht hb, he]
  rfl

/-- R104: STAGE after stage j + 1. -/
theorem stage_add_one_of_toNat {stage : BitVec 5} {n : Nat} (h : stage.toNat = n) :
    stage + 1#5 = BitVec.ofNat 5 (n + 1) := by
  rw [← h, BitVec.ofNat_add, BitVec.ofNat_toNat, BitVec.setWidth_eq]

theorem engineStep_keysched_first {e : Engine} (hop : e.op = .keysched) (hstage : e.stage = 0#5) :
    engineStep e = .next { e with c := (pc1Split e.key).1, d := (pc1Split e.key).2, stage := 1#5 } := by
  rw [engineStep_keysched hop, ksStep_zero hstage, ksStagePc1, hstage]
  rfl

/-- R104, R105: stage j + 1; the last one completes the command. -/
theorem engineStep_keysched_rotate {e : Engine} (hbusy : e.busy = true) (hop : e.op = .keysched) (j : Fin 16)
    (hstage : e.stage.toNat = j.val + 1) :
    engineStep e = .next { e with
      c := rotl e.c shifts[j]
      d := rotl e.d shifts[j]
      sk := e.sk.set j (pc2Subkey (rotl e.c shifts[j], rotl e.d shifts[j]))
      stage := BitVec.ofNat 5 (j.val + 2)
      busy := decide (j ≠ 15)
      done := if j = 15 then true else e.done
      ksValid := if j = 15 then true else e.ksValid } := by
  have hrotate : ksStageRotate j e = { e with
      c := rotl e.c shifts[j]
      d := rotl e.d shifts[j]
      sk := e.sk.set j (pc2Subkey (rotl e.c shifts[j], rotl e.d shifts[j]))
      stage := BitVec.ofNat 5 (j.val + 2) } := by
    rw [ksStageRotate, stage_add_one_of_toNat hstage]
    rfl
  rw [engineStep_keysched hop, ksStep_rotate j hstage, hrotate]
  by_cases hlast : j = 15
  · simp only [hlast, if_true, completeKeysched, completeCommand, ne_eq, not_true, decide_false]
  · simp only [hlast, if_false, ne_eq, not_false_eq_true, decide_true, hbusy]

/-- Settles O13: the engine's turn is the stage that STAGE names. -/
theorem keyschedEngineStep : Obligations.KeyschedEngineStep := by
  unfold Obligations.KeyschedEngineStep
  intro s ts hr ht hb hop
  refine ⟨fun hstage => step_engine_next hr ht hb (engineStep_keysched_first hop hstage), fun j hstage => ?_⟩
  exact ⟨_, step_engine_next hr ht hb (engineStep_keysched_rotate hb hop j hstage), fun hlast => if_pos hlast, rfl⟩

/-! R109: the run of the stages, with the first subkeys in the store after each. -/

/-- The store after `n` stages: the first `n` subkeys of the key, the rest as it was. -/
def subkeysStored (key : Block) (sk : Vector Subkey 16) (n : Nat) : Vector Subkey 16 :=
  Vector.ofFn fun j => if j.val < n then (deriveSubkeys key)[j] else sk[j]

theorem subkeysStored_getElem (key : Block) (sk : Vector Subkey 16) (n : Nat) {i : Nat} (hi : i < 16) :
    (subkeysStored key sk n)[i] = if i < n then (deriveSubkeys key)[i] else sk[i] := by
  simp only [subkeysStored, Vector.getElem_ofFn, Fin.getElem_fin]

theorem subkeysStored_zero (key : Block) (sk : Vector Subkey 16) : subkeysStored key sk 0 = sk := by
  ext i hi : 1
  rw [subkeysStored_getElem, if_neg (Nat.not_lt_zero i)]

theorem subkeysStored_all (key : Block) (sk : Vector Subkey 16) : subkeysStored key sk 16 = deriveSubkeys key := by
  ext i hi : 1
  rw [subkeysStored_getElem, if_pos hi]

theorem subkeysStored_succ (key : Block) (sk : Vector Subkey 16) (j : Fin 16) :
    (subkeysStored key sk j.val).set j (deriveSubkeys key)[j] = subkeysStored key sk (j.val + 1) := by
  ext i hi : 1
  rw [Vector.getElem_set, subkeysStored_getElem _ _ _ hi, subkeysStored_getElem _ _ _ hi]
  by_cases hji : j.val = i
  · subst hji
    rw [if_pos rfl, if_pos (Nat.lt_succ_self _), Fin.getElem_fin]
  · have hlt : i < j.val + 1 ↔ i < j.val := by omega
    rw [if_neg hji, if_congr hlt rfl rfl]

/-- The engine after the acceptance of KEYSCHED and its stages 0 to `n`, before the completion that stage 16 adds. -/
def Engine.afterKeyschedStage (e : Engine) (n : Nat) : Engine :=
  { acceptKeysched e with
    c := (keyHalvesAfter e.key n).1
    d := (keyHalvesAfter e.key n).2
    sk := subkeysStored e.key e.sk n
    stage := BitVec.ofNat 5 (n + 1) }

theorem Engine.afterKeyschedStage_stage (e : Engine) (j : Fin 16) :
    (e.afterKeyschedStage j.val).stage.toNat = j.val + 1 :=
  Nat.mod_eq_of_lt (by omega)

theorem ksStagePc1_acceptKeysched (e : Engine) : ksStagePc1 (acceptKeysched e) = e.afterKeyschedStage 0 := by
  rw [Engine.afterKeyschedStage, subkeysStored_zero]
  rfl

theorem ksStageRotate_afterKeyschedStage (e : Engine) (j : Fin 16) :
    ksStageRotate j (e.afterKeyschedStage j.val) = e.afterKeyschedStage (j.val + 1) := by
  have hhalves : rotateHalves j ((e.afterKeyschedStage j.val).c, (e.afterKeyschedStage j.val).d) =
      keyHalvesAfter e.key (j.val + 1) := (keyHalvesAfter_succ e.key j).symm
  have hsk : (e.afterKeyschedStage j.val).sk.set j (pc2Subkey (keyHalvesAfter e.key (j.val + 1))) =
      subkeysStored e.key e.sk (j.val + 1) := by
    rw [← deriveSubkeys_getElem]
    exact subkeysStored_succ e.key e.sk j
  rw [ksStageRotate, hhalves, hsk, stage_add_one_of_toNat (e.afterKeyschedStage_stage j)]
  rfl

theorem engineStep_acceptKeysched (e : Engine) : engineStep (acceptKeysched e) = .next (e.afterKeyschedStage 0) := by
  rw [engineStep_keysched rfl, ksStep_zero rfl, ksStagePc1_acceptKeysched]

theorem engineStep_afterKeyschedStage (e : Engine) (j : Fin 16) :
    engineStep (e.afterKeyschedStage j.val) =
      .next (if j = 15 then completeKeysched (e.afterKeyschedStage (j.val + 1)) else e.afterKeyschedStage (j.val + 1)) := by
  rw [engineStep_keysched rfl, ksStep_rotate j (e.afterKeyschedStage_stage j), ksStageRotate_afterKeyschedStage]

section
variable {s : State} (hr : s.ready = true) (ht : s.turns = [])
include hr ht

theorem run_keysched_stages {n : Nat} (hn : n ≤ 15) :
    Sys2Proof.core.run (n + 1) (s.onEngine acceptKeysched) =
      .next { s with engine := s.engine.afterKeyschedStage n } := by
  induction n with
  | zero =>
    exact run_one (step_busy_next (s := s.onEngine acceptKeysched) hr ht rfl (engineStep_acceptKeysched s.engine))
  | succ n ih =>
    have hstage := engineStep_afterKeyschedStage s.engine ⟨n, by omega⟩
    rw [if_neg (by simp only [Fin.ext_iff]; omega)] at hstage
    exact (run_add (ih (by omega))).trans
      (run_one (step_busy_next (s := { s with engine := s.engine.afterKeyschedStage n }) hr ht rfl hstage))

theorem run_keysched_completes :
    Sys2Proof.core.run 17 (s.onEngine acceptKeysched) =
      .next { s with engine := completeKeysched (s.engine.afterKeyschedStage 16) } := by
  have hlast := engineStep_afterKeyschedStage s.engine 15
  rw [if_pos rfl] at hlast
  exact (run_add (run_keysched_stages hr ht le_rfl)).trans
    (run_one (step_busy_next (s := { s with engine := s.engine.afterKeyschedStage 15 }) hr ht rfl hlast))

end

/-- Settles O16: after stage 16 the store holds all the subkeys, and the halves are back where they began. -/
theorem keyschedRunDerivesSubkeys : Obligations.KeyschedRunDerivesSubkeys := by
  unfold Obligations.KeyschedRunDerivesSubkeys
  intro s hr ht hb hhi hlo
  refine ⟨s.onEngine acceptKeysched, ?_, ?_⟩
  · rw [exec_eq, State.onEngine, commandEffect, keyschedVerdict_accepted hb hhi hlo]
    rfl
  · rw [run_keysched_completes hr ht, Engine.afterKeyschedStage, subkeysStored_all, keyHalvesAfter_last]
    rfl

/-! R109, R110, R131 in every interleaving. -/

namespace Engine

variable {e e' : Engine}

/-- The moves that raise DONE, with the engine they leave. -/
theorem Move.completion (hm : e.Move e') (h : e.done = false) (h' : e'.done = true) :
    (e.op = .keysched ∧ e.stage = 16#5 ∧ e' = completeKeysched (ksStageRotate 15 e)) ∨
    ((e.op = .encrypt ∨ e.op = .decrypt) ∧ e.stage = 17#5 ∧ e' = btStageFinal e) := by
  cases hm with
  | keyschedCompleted _ hop hstage => exact .inl ⟨hop, hstage, rfl⟩
  | cipherCompleted _ hop hstage => exact .inr ⟨hop, hstage, rfl⟩
  | acknowledged | cleared | keyschedAccepted | cipherAccepted => simp at h'
  | _ => exact absurd h' (by simp [h])

theorem keyschedCompleted_result (hp : e.ProgressInv) (hbusy : e.busy = true) (hop : e.op = .keysched)
    (hstage : e.stage = 16#5) :
    (completeKeysched (ksStageRotate 15 e)).sk = deriveSubkeys e.key ∧
    ((completeKeysched (ksStageRotate 15 e)).c, (completeKeysched (ksStageRotate 15 e)).d) = pc1Split e.key := by
  have hnum : e.stage.toNat = (15 : Fin 16).val + 1 := by simp [hstage]
  refine ⟨(keyschedCompleted_statusInv hp hbusy hop hstage).valid_schedule rfl, ?_⟩
  exact (ksStageRotate_halves hp hbusy hop hnum).trans (keyHalvesAfter_last e.key)

theorem btStageFinal_dout (hs : e.StatusInv) (hp : e.ProgressInv) (hbusy : e.busy = true) (hstage : e.stage = 17#5)
    {dir : Direction} (hdir : opDirection e.op = some dir) :
    (btStageFinal e).dout = transformBlock e.din (deriveSubkeys e.key) dir := by
  obtain ⟨-, -, hks⟩ := hp.cipher_inputs hbusy (cipher_of_opDirection hdir)
  have hhalves : (e.l, e.r) = blockHalvesAfter dir e.sk (ipSplit e.din) 16 := by
    simpa [hstage] using hp.cipher_halves dir hbusy hdir (by simp [hstage])
  rw [← hs.valid_schedule hks, transformBlock, ← hhalves]
  simp

end Engine

/-- Settles O22: the step that raises DONE is the last stage of a command, and the invariant says what the stages before it left. -/
theorem completionGivesTheResult : Obligations.CompletionGivesTheResult := by
  unfold Obligations.CompletionGivesTheResult
  intro s t hinv hr hbusy hstep htr _ hdone
  obtain ⟨hs, hp⟩ := hinv hr
  obtain ⟨hop, hstage, he⟩ | ⟨hop, hstage, he⟩ := (step_move htr hstep).completion (hs.not_done hbusy) hdone
  · obtain ⟨hsk, hcd⟩ := Engine.keyschedCompleted_result hp hbusy hop hstage
    rw [he]
    exact ⟨fun _ => ⟨hsk, rfl, hcd⟩, by simp [hop], by simp [hop]⟩
  · rw [he]
    refine ⟨fun hk => by simp [hk] at hop, fun henc => ?_, fun hdec => ?_⟩
    · exact Engine.btStageFinal_dout hs hp hbusy hstage (by rw [henc]; rfl)
    · exact Engine.btStageFinal_dout hs hp hbusy hstage (by rw [hdec]; rfl)

end Sys2Proof.Machine
end

section
/-! The primitives over lists of bits give the bits of the primitives over bit vectors (R160, R162, R164, R166, and the S-boxes of
R143 to R145; log 11). -/

namespace Sys2Proof.Machine

@[simp] theorem andThen_next {α β : Type} (a : α) (k : α → Host.Outcome β Fault Refusal) : andThen (.next a) k = k a := rfl

theorem bitsOf_append {n m : Nat} (a : BitVec n) (b : BitVec m) : bitsOf (a ++ b) = bitsOf a ++ bitsOf b := by
  refine List.ext_getElem (by simp [bitsOf_length]) fun i hi _ => ?_
  rw [bitsOf_length] at hi
  simp only [bitsOf_getElem, List.getElem_append, bitsOf_length, dbit_succ _ hi, BitVec.getMsbD_append]
  by_cases hleft : i < n
  · rw [if_neg (by omega), dif_pos hleft, dbit_succ _ hleft]
  · rw [if_pos (by omega), dif_neg hleft, dbit_succ _ (by omega)]

/-- The `len` bits of a list after the first `a` are those of a slice. -/
theorem take_drop_bitsOf {n : Nat} (v : BitVec n) (a len : Nat) (h : a + len ≤ n) :
    ((bitsOf v).drop a).take len = bitsOf (v.extractLsb' (n - (a + len)) len) := by
  refine List.ext_getElem (by simp [bitsOf_length]; omega) fun i hi hi' => ?_
  rw [bitsOf_length] at hi'
  have habove : n - (n - (a + len) + len) = a := by omega
  rw [List.getElem_take, List.getElem_drop, bitsOf_getElem, bitsOf_getElem,
    dbit_extractLsb' v (by omega) ⟨by omega, hi'⟩, habove, Nat.add_assoc]

/-- R160: on a table whose entries are in range, no entry is reported. -/
theorem permuteBitsFrom_bitsOf {n : Nat} (v : BitVec n) (ts : List Nat) (hts : ∀ t ∈ ts, 1 ≤ t ∧ t ≤ n) (j : Nat) :
    permuteBitsFrom (bitsOf v) j ts = .next (ts.map (dbit v)) := by
  induction ts generalizing j with
  | nil => rfl
  | cons t ts ih =>
    rw [List.forall_mem_cons] at hts
    obtain ⟨⟨hpos, hle⟩, hrest⟩ := hts
    have hin : 1 ≤ t ∧ t ≤ (bitsOf v).length := ⟨hpos, by rwa [bitsOf_length]⟩
    rw [permuteBitsFrom, dif_pos hin, ih hrest, andThen_next, bitsOf_getElem, Nat.sub_add_cancel hpos, List.map_cons]

theorem permTable_entry_inRange {n m : Nat} (T : PermTable n m) : ∀ t ∈ T.entries.toList, 1 ≤ t ∧ t ≤ n := by
  simpa only [List.all_eq_true, Bool.and_eq_true, decide_eq_true_eq] using T.inRange

theorem bitsOf_permute {n m : Nat} (T : PermTable n m) (v : BitVec n) :
    bitsOf (permute T v) = T.entries.toList.map (dbit v) := by
  refine List.ext_getElem (by simp [bitsOf_length]) fun i hi hi' => ?_
  rw [bitsOf_length] at hi
  rw [bitsOf_getElem, dbit_succ _ hi, List.getElem_map, Vector.getElem_toList]
  exact permute_getMsbD T v ⟨i, hi⟩

theorem permuteBits_bitsOf {n m : Nat} (T : PermTable n m) (v : BitVec n) :
    permuteBits T.entries.toList (bitsOf v) = .next (bitsOf (permute T v)) := by
  rw [permuteBits, permuteBitsFrom_bitsOf v _ (permTable_entry_inRange T), bitsOf_permute]

theorem xorBits_bitsOf {n : Nat} (a b : BitVec n) : xorBits (bitsOf a) (bitsOf b) = .next (bitsOf (a ^^^ b)) := by
  rw [xorBits, if_pos (by simp only [bitsOf_length])]
  congr 1
  refine List.ext_getElem (by simp [bitsOf_length]) fun i hi hi' => ?_
  simp only [List.getElem_zipWith, bitsOf_getElem, dbit, BitVec.getLsbD_xor]

theorem rotateLeftBits_bitsOf {w : Nat} (v : BitVec w) (k : Nat) : rotateLeftBits (bitsOf v) k = bitsOf (rotl v k) := by
  rw [rotateLeftBits, ← List.rotate_eq_drop_append_take_mod]
  refine List.ext_getElem (by simp [bitsOf_length]) fun i hi hi' => ?_
  rw [bitsOf_length] at hi'
  have hin : (i + k) % w < w := Nat.mod_lt _ (by omega)
  simp only [List.getElem_rotate, bitsOf_getElem, bitsOf_length, dbit_succ _ hi', dbit_succ _ hin, getMsbD_rotl, hi',
    decide_true, Bool.true_and, Nat.add_comm k i]

/-! R166: the halves. -/

theorem take_bitsOf_leftHalf {w : Nat} (v : BitVec (w + w)) : (bitsOf v).take w = bitsOf (leftHalf v) := by
  have hslice := take_drop_bitsOf v 0 w (by omega)
  rwa [List.drop_zero, Nat.zero_add, Nat.add_sub_cancel] at hslice

theorem drop_bitsOf_rightHalf {w : Nat} (v : BitVec (w + w)) : (bitsOf v).drop w = bitsOf (rightHalf v) := by
  have hslice := take_drop_bitsOf v w w le_rfl
  rwa [Nat.sub_self, List.take_of_length_le (by rw [List.length_drop, bitsOf_length]; omega)] at hslice

/-! R143 to R145: the S-boxes, chunk by chunk. -/

theorem bitsOf_six (b : BitVec 6) :
    bitsOf b = [b.getLsbD 5, b.getLsbD 4, b.getLsbD 3, b.getLsbD 2, b.getLsbD 1, b.getLsbD 0] := rfl

theorem sboxLookup_bits (S : SBox) (b : BitVec 6) :
    sboxLookup S b =
      S[(BitVec.ofBool (b.getLsbD 5) ++ BitVec.ofBool (b.getLsbD 0)).toFin][
        (BitVec.ofBool (b.getLsbD 4) ++ BitVec.ofBool (b.getLsbD 3) ++ BitVec.ofBool (b.getLsbD 2) ++
          BitVec.ofBool (b.getLsbD 1)).toFin] := by
  have hrow : b.extractLsb' 5 1 ++ b.extractLsb' 0 1 = BitVec.ofBool (b.getLsbD 5) ++ BitVec.ofBool (b.getLsbD 0) := by
    revert b; decide
  have hcol : b.extractLsb' 1 4 = BitVec.ofBool (b.getLsbD 4) ++ BitVec.ofBool (b.getLsbD 3) ++
      BitVec.ofBool (b.getLsbD 2) ++ BitVec.ofBool (b.getLsbD 1) := by
    revert b; decide
  simp only [sboxLookup, hrow, hcol]

theorem substituteBits_chunks (Ss : List SBox) (bs : List (BitVec 6)) :
    substituteBits Ss (bs.flatMap bitsOf) = (List.zipWith sboxLookup Ss bs).flatMap bitsOf := by
  induction bs generalizing Ss with
  | nil => cases Ss <;> rfl
  | cons b bs ih =>
    cases Ss with
    | nil => rfl
    | cons S Ss =>
      simp only [List.flatMap_cons, List.zipWith_cons_cons, ← ih, bitsOf_six, sboxLookup_bits, List.cons_append,
        List.nil_append, substituteBits]

theorem bitsOf_drop_chunk (x : Subkey) (i : Fin 8) :
    (bitsOf x).drop (6 * i.val) = bitsOf (chunk x i) ++ (bitsOf x).drop (6 * (i.val + 1)) := by
  have hslice := take_drop_bitsOf x (6 * i.val) 6 (by omega)
  have hplace : 48 - (6 * i.val + 6) = 42 - 6 * i.val := by omega
  rw [hplace] at hslice
  rw [chunk, ← hslice, Nat.mul_succ, ← List.drop_drop, List.take_append_drop]

theorem bitsOf_drop_eq_chunks (x : Subkey) {i : Nat} (hi : i ≤ 8) :
    (bitsOf x).drop (6 * i) = ((List.ofFn (chunk x)).drop i).flatMap bitsOf := by
  induction hi using Nat.decreasingInduction with
  | self => rw [List.drop_of_length_le (bitsOf_length x).le, List.drop_of_length_le (by simp), List.flatMap_nil]
  | of_succ i hi ih =>
    rw [List.drop_eq_getElem_cons (l := List.ofFn (chunk x)) (by simpa using hi), List.getElem_ofFn, List.flatMap_cons,
      ← ih]
    exact bitsOf_drop_chunk x ⟨i, hi⟩

/-- R143: the mixed value is its eight chunks. -/
theorem bitsOf_eq_chunks (x : Subkey) : bitsOf x = (List.ofFn (chunk x)).flatMap bitsOf :=
  bitsOf_drop_eq_chunks x (Nat.zero_le 8)

/-- R145: the output is that of the eight S-boxes in order. -/
theorem bitsOf_substitute (x : Subkey) : bitsOf (substitute x) = (List.ofFn (sboxOut x)).flatMap bitsOf := by
  simp only [substitute, bitsOf_append, List.ofFn_succ, List.ofFn_zero, List.flatMap_cons, List.flatMap_nil,
    List.append_nil, List.append_assoc]
  rfl

theorem zipWith_sboxLookup (x : Subkey) :
    List.zipWith sboxLookup sboxes.toList (List.ofFn (chunk x)) = List.ofFn (sboxOut x) := rfl

theorem substituteBits_bitsOf (x : Subkey) : substituteBits sboxes.toList (bitsOf x) = bitsOf (substitute x) := by
  rw [bitsOf_eq_chunks, substituteBits_chunks, zipWith_sboxLookup, bitsOf_substitute]

/-- R140. -/
theorem roundFunctionBits_bitsOf (r : Half) (k : Subkey) :
    roundFunctionBits (bitsOf r) (bitsOf k) = .next (bitsOf (roundFunction r k)) := by
  simp only [roundFunctionBits, permuteBits_bitsOf, andThen_next, xorBits_bitsOf, substituteBits_bitsOf, roundFunction]

end Sys2Proof.Machine
end

section
/-! The functional layer over lists of bits gives the bits of the functional layer over bit vectors (R108, R130, R168; log 11): the
two loops, from any stage on. -/

namespace Sys2Proof.Machine

theorem vector_toList_drop {α : Type} {m n : Nat} (v : Vector α m) (h : n < m) :
    v.toList.drop n = v[n] :: v.toList.drop (n + 1) := by
  rw [List.drop_eq_getElem_cons (by rwa [Vector.length_toList]), Vector.getElem_toList]

/-- R108: the loop from stage `n` on gives the subkeys from there on. -/
theorem subkeyLoopBits_from (key : Block) {n : Nat} (hn : n ≤ 16) :
    subkeyLoopBits (shifts.toList.drop n) (bitsOf (keyHalvesAfter key n).1) (bitsOf (keyHalvesAfter key n).2) =
      .next (((deriveSubkeys key).toList.drop n).map bitsOf) := by
  induction hn using Nat.decreasingInduction with
  | self => rw [List.drop_of_length_le (by simp), List.drop_of_length_le (by simp)]; rfl
  | of_succ n hn ih =>
    have hhalves : (rotl (keyHalvesAfter key n).1 shifts[n], rotl (keyHalvesAfter key n).2 shifts[n]) =
        keyHalvesAfter key (n + 1) := (keyHalvesAfter_succ key ⟨n, hn⟩).symm
    have hc : rotl (keyHalvesAfter key n).1 shifts[n] = (keyHalvesAfter key (n + 1)).1 := congrArg Prod.fst hhalves
    have hd : rotl (keyHalvesAfter key n).2 shifts[n] = (keyHalvesAfter key (n + 1)).2 := congrArg Prod.snd hhalves
    have hsubkey : permute pc2Table ((keyHalvesAfter key (n + 1)).1 ++ (keyHalvesAfter key (n + 1)).2) =
        (deriveSubkeys key)[n] := (deriveSubkeys_getElem key ⟨n, hn⟩).symm
    rw [vector_toList_drop shifts hn, vector_toList_drop (deriveSubkeys key) hn, subkeyLoopBits, rotateLeftBits_bitsOf,
      rotateLeftBits_bitsOf, hc, hd, ← bitsOf_append, permuteBits_bitsOf, andThen_next, hsubkey, ih, andThen_next,
      List.map_cons]

theorem deriveSubkeysBits_bitsOf (key : Block) :
    deriveSubkeysBits (bitsOf key) = .next ((deriveSubkeys key).toList.map bitsOf) := by
  have hloop := subkeyLoopBits_from key (Nat.zero_le 16)
  rw [List.drop_zero, List.drop_zero] at hloop
  rw [deriveSubkeysBits, if_pos (bitsOf_length key), permuteBits_bitsOf, andThen_next, take_bitsOf_leftHalf (w := 28),
    drop_bitsOf_rightHalf (w := 28)]
  exact hloop

/-- R126: the subkeys in the order the rounds use them. -/
def subkeysInUse (dir : Direction) (ks : Vector Subkey 16) : List Subkey := List.ofFn (selectSubkey dir ks)

theorem subkeysInUse_length (dir : Direction) (ks : Vector Subkey 16) : (subkeysInUse dir ks).length = 16 :=
  List.length_ofFn

theorem subkeysInUse_getElem (dir : Direction) (ks : Vector Subkey 16) {i : Nat} (h : i < (subkeysInUse dir ks).length) :
    (subkeysInUse dir ks)[i] = selectSubkey dir ks ⟨i, subkeysInUse_length dir ks ▸ h⟩ :=
  List.getElem_ofFn _

theorem subkeysInUse_encrypt (ks : Vector Subkey 16) : subkeysInUse .encrypt ks = ks.toList := by
  refine List.ext_getElem (by rw [subkeysInUse_length, Vector.length_toList]) fun i hi hi' => ?_
  rw [subkeysInUse_getElem, Vector.getElem_toList, selectSubkey, Fin.getElem_fin]

theorem subkeysInUse_decrypt (ks : Vector Subkey 16) : subkeysInUse .decrypt ks = ks.toList.reverse := by
  refine List.ext_getElem (by rw [subkeysInUse_length, List.length_reverse, Vector.length_toList]) fun i hi hi' => ?_
  have hrev : 16 - (i + 1) = 16 - 1 - i := by omega
  simp only [subkeysInUse_getElem, selectSubkey, Fin.getElem_fin, Fin.val_rev, List.getElem_reverse, Vector.getElem_toList,
    Vector.length_toList, hrev]

/-- R130: the loop from round `n` on gives the bits that all sixteen rounds and R127 give. -/
theorem roundLoopBits_from (dir : Direction) (ks : Vector Subkey 16) (lr : Half × Half) {n : Nat} (hn : n ≤ 16) :
    roundLoopBits (((subkeysInUse dir ks).drop n).map bitsOf) (bitsOf (blockHalvesAfter dir ks lr n).1)
        (bitsOf (blockHalvesAfter dir ks lr n).2) =
      .next (bitsOf (ipInvJoin (blockHalvesAfter dir ks lr 16))) := by
  induction hn using Nat.decreasingInduction with
  | self =>
    rw [List.drop_of_length_le (subkeysInUse_length dir ks).le, List.map_nil, roundLoopBits, ← bitsOf_append,
      permuteBits_bitsOf, ipInvJoin]
  | of_succ n hn ih =>
    rw [blockHalvesAfter_succ dir ks lr ⟨n, hn⟩, feistelRound] at ih
    rw [List.drop_eq_getElem_cons (by rwa [subkeysInUse_length]), subkeysInUse_getElem, List.map_cons, roundLoopBits,
      roundFunctionBits_bitsOf, andThen_next, xorBits_bitsOf, andThen_next]
    exact ih

theorem transformBlockBits_bitsOf (block : Block) (ks : Vector Subkey 16) (dir : Direction) :
    transformBlockBits (bitsOf block) (ks.toList.map bitsOf) dir = .next (bitsOf (transformBlock block ks dir)) := by
  have hshape : (ks.toList.map bitsOf).length = 16 ∧
      (ks.toList.map bitsOf).all (fun k => k.length == 48) = true := by
    simp [bitsOf_length]
  have hloop := roundLoopBits_from dir ks (ipSplit block) (Nat.zero_le 16)
  unfold transformBlockBits
  rw [if_pos (bitsOf_length block), if_pos hshape, permuteBits_bitsOf, andThen_next,
    take_bitsOf_leftHalf (w := 32), drop_bitsOf_rightHalf (w := 32)]
  cases dir with
  | encrypt =>
    rw [subkeysInUse_encrypt] at hloop
    exact hloop
  | decrypt =>
    rw [subkeysInUse_decrypt, List.drop_zero, List.map_reverse] at hloop
    exact hloop

/-- Settles O59: both calls meet the checks on their lengths, and their loops run from the first stage. -/
theorem functionalLayersAgree : Obligations.FunctionalLayersAgree := by
  unfold Obligations.FunctionalLayersAgree
  exact ⟨deriveSubkeysBits_bitsOf, transformBlockBits_bitsOf⟩

end Sys2Proof.Machine
end

section
/-! ENCRYPT and DECRYPT at the CMD write (R121): the verdicts on an idle engine. -/

namespace Sys2Proof.Machine

/-- R120, R122: ENCRYPT and DECRYPT are one verdict, up to the operation it records. -/
theorem exec_cipher {i : Instr} {op : Op} (h : (i = .encrypt ∧ op = .encrypt) ∨ (i = .decrypt ∧ op = .decrypt))
    (s : State) : exec i s = .next { s with engine := cipherVerdict op s.engine } := by
  obtain ⟨rfl, rfl⟩ | ⟨rfl, rfl⟩ := h <;> rfl

theorem cipherVerdict_incomplete (op : Op) {e : Engine} (hb : e.busy = false) (hdin : e.dinHiV = false ∨ e.dinLoV = false) :
    cipherVerdict op e = reject errInvalidInputLength e := by
  obtain hhi | hlo := hdin
  · simp [cipherVerdict, hb, hhi]
  · simp [cipherVerdict, hb, hlo]

theorem cipherVerdict_no_schedule (op : Op) {e : Engine} (hb : e.busy = false) (hhi : e.dinHiV = true)
    (hlo : e.dinLoV = true) (hks : e.ksValid = false) : cipherVerdict op e = reject errNoKeySchedule e := by
  simp [cipherVerdict, hb, hhi, hlo, hks]

/-- Settles O10: the three verdicts on an idle engine. -/
theorem cipherAcceptance : Obligations.CipherAcceptance := by
  unfold Obligations.CipherAcceptance
  intro s i op hi hb
  rw [exec_cipher hi]
  refine ⟨fun hhi hlo hks => ?_, fun hdin => ?_, fun hhi hlo hks => ?_⟩
  · rw [cipherVerdict_accepted op hb hhi hlo hks]
    rfl
  · rw [cipherVerdict_incomplete op hb hdin]
    rfl
  · rw [cipherVerdict_no_schedule op hb hhi hlo hks]
    rfl

end Sys2Proof.Machine
end

section
/-! The stages of ENCRYPT and DECRYPT (R125 to R127): one engine step, and the run of all eighteen (R131). -/

namespace Sys2Proof.Machine

theorem engineStep_of_opDirection {e : Engine} {dir : Direction} (hdir : opDirection e.op = some dir) :
    engineStep e = btStep dir e := by
  refine engineStep_cipher ?_
  obtain hop | hop := cipher_of_opDirection hdir
  · rw [hop] at hdir
    cases hdir
    exact .inl ⟨hop, rfl⟩
  · rw [hop] at hdir
    cases hdir
    exact .inr ⟨hop, rfl⟩

/-- R126: DECRYPT takes the subkeys in reverse order. -/
theorem selectSubkey_eq (dir : Direction) (ks : Vector Subkey 16) (i : Fin 16) :
    selectSubkey dir ks i = if dir = .encrypt then ks[i.val] else ks[15 - i.val] := by
  cases dir with
  | encrypt => rfl
  | decrypt =>
    have hrev : i.rev.val = 15 - i.val := by rw [Fin.val_rev]; omega
    simp only [selectSubkey, Fin.getElem_fin, hrev, reduceCtorEq, if_false]

theorem engineStep_cipher_first {e : Engine} {dir : Direction} (hdir : opDirection e.op = some dir)
    (hstage : e.stage = 0#5) :
    engineStep e = .next { e with l := (ipSplit e.din).1, r := (ipSplit e.din).2, stage := 1#5 } := by
  rw [engineStep_of_opDirection hdir, btStep_zero hstage, btStageIp, hstage]
  rfl

/-- R125, stage i + 1. -/
theorem engineStep_cipher_round {e : Engine} {dir : Direction} (hdir : opDirection e.op = some dir) (i : Fin 16)
    (hstage : e.stage.toNat = i.val + 1) :
    engineStep e = .next { e with
      l := e.r
      r := e.l ^^^ roundFunction e.r (selectSubkey dir e.sk i)
      stage := BitVec.ofNat 5 (i.val + 2) } := by
  rw [engineStep_of_opDirection hdir, btStep_round i hstage, btStageRound, stage_add_one_of_toNat hstage]
  rfl

theorem engineStep_cipher_final {e : Engine} {dir : Direction} (hdir : opDirection e.op = some dir)
    (hstage : e.stage = 17#5) :
    engineStep e = .next { e with dout := ipInvJoin (e.l, e.r), busy := false, done := true, stage := 18#5 } := by
  rw [engineStep_of_opDirection hdir, btStep_final hstage, btStageFinal, hstage]
  rfl

/-- Settles O14: the engine's turn is the stage that STAGE names. -/
theorem cipherEngineStep : Obligations.CipherEngineStep := by
  unfold Obligations.CipherEngineStep
  intro s ts dir hr ht hb hdir
  refine ⟨fun hstage => step_engine_next hr ht hb (engineStep_cipher_first hdir hstage), fun i hstage => ?_,
    fun hstage => ⟨_, step_engine_next hr ht hb (engineStep_cipher_final hdir hstage), rfl, rfl⟩⟩
  rw [← selectSubkey_eq]
  exact step_engine_next hr ht hb (engineStep_cipher_round hdir i hstage)

/-! R131: the run of the stages, with the halves after each. -/

/-- The engine after the acceptance of ENCRYPT or DECRYPT and its stages 0 to `n`, at most 16. -/
def Engine.afterCipherStage (e : Engine) (op : Op) (dir : Direction) (n : Nat) : Engine :=
  { acceptCommand op e with
    l := (blockHalvesAfter dir e.sk (ipSplit e.din) n).1
    r := (blockHalvesAfter dir e.sk (ipSplit e.din) n).2
    stage := BitVec.ofNat 5 (n + 1) }

section
variable {s : State} {op : Op} {dir : Direction} (hdir : opDirection op = some dir)
include hdir

theorem engineStep_acceptCommand (e : Engine) :
    engineStep (acceptCommand op e) = .next (e.afterCipherStage op dir 0) :=
  engineStep_cipher_first hdir rfl

theorem engineStep_afterCipherStage (e : Engine) (i : Fin 16) :
    engineStep (e.afterCipherStage op dir i.val) = .next (e.afterCipherStage op dir (i.val + 1)) := by
  have hstage : (e.afterCipherStage op dir i.val).stage.toNat = i.val + 1 := Nat.mod_eq_of_lt (by omega)
  rw [engineStep_cipher_round (e := e.afterCipherStage op dir i.val) hdir i hstage,
    Engine.afterCipherStage, Engine.afterCipherStage, blockHalvesAfter_succ]
  rfl

variable (hr : s.ready = true) (ht : s.turns = [])
include hr ht

theorem run_cipher_stages {n : Nat} (hn : n ≤ 16) :
    Sys2Proof.core.run (n + 1) { s with engine := acceptCommand op s.engine } =
      .next { s with engine := s.engine.afterCipherStage op dir n } := by
  induction n with
  | zero =>
    exact run_one (step_busy_next (s := { s with engine := acceptCommand op s.engine }) hr ht rfl
      (engineStep_acceptCommand hdir s.engine))
  | succ n ih =>
    exact (run_add (ih (by omega))).trans
      (run_one (step_busy_next (s := { s with engine := s.engine.afterCipherStage op dir n }) hr ht rfl
        (engineStep_afterCipherStage hdir s.engine ⟨n, hn⟩)))

theorem run_cipher_completes :
    Sys2Proof.core.run 18 { s with engine := acceptCommand op s.engine } =
      .next { s with engine := { s.engine.afterCipherStage op dir 16 with
        dout := transformBlock s.engine.din s.engine.sk dir
        busy := false
        done := true
        stage := 18#5 } } :=
  (run_add (run_cipher_stages hdir hr ht le_rfl)).trans
    (run_one (step_busy_next (s := { s with engine := s.engine.afterCipherStage op dir 16 }) hr ht rfl
      (engineStep_cipher_final (e := s.engine.afterCipherStage op dir 16) hdir rfl)))

end

/-- Settles O17: after stage 16 the halves are those of the sixteen rounds, and stage 17 joins them. -/
theorem cipherRunTransformsBlock : Obligations.CipherRunTransformsBlock := by
  unfold Obligations.CipherRunTransformsBlock
  intro s i op dir hi hr ht hb hhi hlo hks
  have hcommand : (i = .encrypt ∧ op = .encrypt) ∨ (i = .decrypt ∧ op = .decrypt) :=
    hi.imp (fun ⟨h, h', _⟩ => ⟨h, h'⟩) (fun ⟨h, h', _⟩ => ⟨h, h'⟩)
  have hdir : opDirection op = some dir := by
    obtain ⟨-, rfl, rfl⟩ | ⟨-, rfl, rfl⟩ := hi <;> rfl
  refine ⟨{ s with engine := acceptCommand op s.engine }, ?_, run_cipher_completes hdir hr ht⟩
  rw [exec_cipher hcommand, cipherVerdict_accepted op hb hhi hlo hks]

end Sys2Proof.Machine
end

section
/-! The block transform as a function of block and subkeys (R126 to R132): it depends on the subkeys in the order they are used
(R128(e)), and the other direction undoes it (R132). -/

namespace Sys2Proof.Machine

theorem blockHalvesAfter_congr {dir dir' : Direction} {ks ks' : Vector Subkey 16}
    (h : ∀ i : Fin 16, selectSubkey dir ks i = selectSubkey dir' ks' i) (lr : Half × Half) (n : Nat) :
    blockHalvesAfter dir ks lr n = blockHalvesAfter dir' ks' lr n := by
  induction n with
  | zero => rfl
  | succ n ih => simp only [blockHalvesAfter, h, ih]

/-- Settles O50: the two orders of equal subkeys are one order. -/
theorem equalSubkeysEncryptAsDecrypt : Obligations.EqualSubkeysEncryptAsDecrypt := by
  unfold Obligations.EqualSubkeysEncryptAsDecrypt
  intro ks b heq
  have hselect (i : Fin 16) : selectSubkey .encrypt ks i = selectSubkey .decrypt ks i := heq i i.rev
  rw [transformBlock, blockHalvesAfter_congr hselect, transformBlock]

/-! IP and IP^-1 undo each other (R195(a)), and so do the split and the join, up to the swap of R127. -/

/-- Each entry of U names the place at which T has the number of the entry. -/
theorem permute_permute_cancel {n : Nat} {T U : PermTable n n}
    (h : ∀ j : Fin n, T.entries[U.entries[j] - 1]? = some (j.val + 1)) (v : BitVec n) : permute U (permute T v) = v := by
  refine BitVec.eq_of_getMsbD_eq fun j hj => ?_
  have hentry : T.entries[U.entries[j] - 1]? = some (j + 1) := h ⟨j, hj⟩
  obtain ⟨hplace, hT⟩ := Vector.getElem?_eq_some_iff.mp hentry
  obtain ⟨hpos, -⟩ := permTable_entry_inRange U U.entries[j] (by simp)
  calc (permute U (permute T v)).getMsbD j
      = dbit (permute T v) U.entries[j] := permute_getMsbD U _ ⟨j, hj⟩
    _ = (permute T v).getMsbD (U.entries[j] - 1) := by rw [← dbit_succ _ hplace, Nat.sub_add_cancel hpos]
    _ = dbit v (j + 1) := by rw [← hT]; exact permute_getMsbD T v ⟨_, hplace⟩
    _ = v.getMsbD j := dbit_succ v hj

theorem permute_ipInv_ip (v : Block) : permute ipInvTable (permute ipTable v) = v :=
  permute_permute_cancel (by decide) v

theorem permute_ip_ipInv (v : Block) : permute ipTable (permute ipInvTable v) = v :=
  permute_permute_cancel (by decide) v

theorem ipSplit_ipInvJoin (lr : Half × Half) : ipSplit (ipInvJoin lr) = lr.swap := by
  rw [ipSplit, ipInvJoin, permute_ip_ipInv]
  exact Prod.ext (leftHalf_append lr.2 lr.1) (rightHalf_append lr.2 lr.1)

theorem ipInvJoin_swap_ipSplit (b : Block) : ipInvJoin (ipSplit b).swap = b := by
  have hjoin : (ipSplit b).1 ++ (ipSplit b).2 = permute ipTable b := leftHalf_append_rightHalf (w := 32) _
  rw [ipInvJoin, Prod.snd_swap, Prod.fst_swap, hjoin, permute_ipInv_ip]

/-! R132: the rounds of the other direction, on swapped halves, undo the rounds from the last one back. -/

/-- The direction that undoes this one. -/
def oppositeDirection : Direction → Direction
  | .encrypt => .decrypt
  | .decrypt => .encrypt

theorem selectSubkey_oppositeDirection (dir : Direction) (ks : Vector Subkey 16) (i : Fin 16) :
    selectSubkey (oppositeDirection dir) ks i = selectSubkey dir ks i.rev := by
  cases dir with
  | encrypt => rfl
  | decrypt => simp only [oppositeDirection, selectSubkey, Fin.rev_rev]

/-- R124: a round is undone by the same round between two swaps, whatever f is. -/
theorem feistelRound_swap_feistelRound (k : Subkey) (lr : Half × Half) :
    feistelRound k (feistelRound k lr).swap = lr.swap := by
  simp only [feistelRound, Prod.swap, BitVec.xor_assoc, BitVec.xor_self, BitVec.xor_zero]

theorem blockHalvesAfter_oppositeDirection (dir : Direction) (ks : Vector Subkey 16) (lr : Half × Half) {n : Nat}
    (hn : n ≤ 16) :
    blockHalvesAfter (oppositeDirection dir) ks (blockHalvesAfter dir ks lr 16).swap n =
      (blockHalvesAfter dir ks lr (16 - n)).swap := by
  induction n with
  | zero => rfl
  | succ n ih =>
    obtain ⟨i, rfl⟩ : ∃ i : Fin 16, i.val = n := ⟨⟨n, hn⟩, rfl⟩
    have hrest : 16 - i.val = i.rev.val + 1 := by rw [Fin.val_rev]; omega
    have hundone : 16 - (i.val + 1) = i.rev.val := (Fin.val_rev i).symm
    calc blockHalvesAfter (oppositeDirection dir) ks (blockHalvesAfter dir ks lr 16).swap (i.val + 1)
        = feistelRound (selectSubkey dir ks i.rev) (blockHalvesAfter dir ks lr (i.rev.val + 1)).swap := by
          rw [blockHalvesAfter_succ, selectSubkey_oppositeDirection, ih (by omega), hrest]
      _ = (blockHalvesAfter dir ks lr i.rev.val).swap := by
          rw [blockHalvesAfter_succ, feistelRound_swap_feistelRound]
      _ = (blockHalvesAfter dir ks lr (16 - (i.val + 1))).swap := by rw [hundone]

theorem transformBlock_oppositeDirection (b : Block) (ks : Vector Subkey 16) (dir : Direction) :
    transformBlock (transformBlock b ks dir) ks (oppositeDirection dir) = b :=
  calc transformBlock (transformBlock b ks dir) ks (oppositeDirection dir)
      = ipInvJoin (blockHalvesAfter (oppositeDirection dir) ks (blockHalvesAfter dir ks (ipSplit b) 16).swap 16) := by
        rw [transformBlock, transformBlock, ipSplit_ipInvJoin]
    _ = ipInvJoin (ipSplit b).swap := by rw [blockHalvesAfter_oppositeDirection dir ks _ le_rfl]; rfl
    _ = b := ipInvJoin_swap_ipSplit b

/-- Settles O46: encryption and decryption of a key are the two directions under its subkeys. -/
theorem cipherRoundTrip : Obligations.CipherRoundTrip := by
  unfold Obligations.CipherRoundTrip
  have hround (ks : Vector Subkey 16) (b : Block) :
      transformBlock (transformBlock b ks .encrypt) ks .decrypt = b ∧
      transformBlock (transformBlock b ks .decrypt) ks .encrypt = b :=
    ⟨transformBlock_oppositeDirection b ks .encrypt, transformBlock_oppositeDirection b ks .decrypt⟩
  exact ⟨fun k b => hround (deriveSubkeys k) b, hround⟩

end Sys2Proof.Machine
end

section
/-! The S-box lookup (R144, R148 of 42_round_function.md): the entry at the row and column of a chunk, and how often each output is
taken. -/

namespace Sys2Proof.Machine

theorem sboxRow_toNat (b : BitVec 6) :
    (b.extractLsb' 5 1 ++ b.extractLsb' 0 1).toNat = 2 * (dbit b 1).toNat + (dbit b 6).toNat := by
  revert b; decide

theorem sboxCol_toNat (b : BitVec 6) :
    (b.extractLsb' 1 4).toNat =
      8 * (dbit b 2).toNat + 4 * (dbit b 3).toNat + 2 * (dbit b 4).toNat + (dbit b 5).toNat := by
  revert b; decide

theorem sboxLookup_eq_entry (S : SBox) {b : BitVec 6} {row : Fin 4} {col : Fin 16}
    (hrow : row.val = 2 * (dbit b 1).toNat + (dbit b 6).toNat)
    (hcol : col.val = 8 * (dbit b 2).toNat + 4 * (dbit b 3).toNat + 2 * (dbit b 4).toNat + (dbit b 5).toNat) :
    sboxLookup S b = S[row][col] := by
  have hr : (b.extractLsb' 5 1 ++ b.extractLsb' 0 1).toFin = row := Fin.ext ((sboxRow_toNat b).trans hrow.symm)
  have hc : (b.extractLsb' 1 4).toFin = col := Fin.ext ((sboxCol_toNat b).trans hcol.symm)
  simp only [sboxLookup, hr, hc]

/-! R148: the 64 chunks are the pairs of a row and a column, so an output is taken as often as the four rows hold it. -/

/-- The chunk that selects a row and a column: the two bits of the row around the column. -/
def chunkAt (row : Fin 4) (col : Fin 16) : BitVec 6 :=
  (BitVec.ofFin (w := 2) row).extractLsb' 1 1 ++ BitVec.ofFin (w := 4) col ++ (BitVec.ofFin (w := 2) row).extractLsb' 0 1

theorem chunkAt_selects (row : Fin 4) (col : Fin 16) :
    row.val = 2 * (dbit (chunkAt row col) 1).toNat + (dbit (chunkAt row col) 6).toNat ∧
    col.val = 8 * (dbit (chunkAt row col) 2).toNat + 4 * (dbit (chunkAt row col) 3).toNat +
      2 * (dbit (chunkAt row col) 4).toNat + (dbit (chunkAt row col) 5).toNat := by
  revert row col; decide

theorem sboxLookup_chunkAt (S : SBox) (row : Fin 4) (col : Fin 16) : sboxLookup S (chunkAt row col) = S[row][col] := by
  obtain ⟨hrow, hcol⟩ := chunkAt_selects row col
  exact sboxLookup_eq_entry S hrow hcol

theorem chunks_perm_chunkAt :
    ((List.range 64).map (BitVec.ofNat 6)).Perm
      ((List.finRange 4).flatMap fun row => (List.finRange 16).map (chunkAt row)) := by
  decide

theorem countP_sboxLookup (S : SBox) (v : BitVec 4) :
    (List.range 64).countP (fun b => sboxLookup S (BitVec.ofNat 6 b) = v) =
      ((List.finRange 4).map fun row => (List.finRange 16).countP fun col => S[row][col] = v).sum :=
  calc (List.range 64).countP (fun b => sboxLookup S (BitVec.ofNat 6 b) = v)
      = ((List.range 64).map (BitVec.ofNat 6)).countP (fun b => sboxLookup S b = v) := by
        rw [List.countP_map, Function.comp_def]
    _ = ((List.finRange 4).flatMap fun row => (List.finRange 16).map (chunkAt row)).countP (fun b => sboxLookup S b = v) :=
        chunks_perm_chunkAt.countP_eq _
    _ = ((List.finRange 4).map fun row => (List.finRange 16).countP fun col => S[row][col] = v).sum := by
        simp only [List.countP_flatMap, List.countP_map, Function.comp_def, sboxLookup_chunkAt]

/-- Each row of each S-box is a permutation of 0..15. -/
theorem sboxRow_perm (n : Fin 8) (row : Fin 4) :
    ((List.finRange 16).map fun col => sboxes[n][row][col]).Perm ((List.finRange 16).map (BitVec.ofFin (w := 4))) := by
  revert n row; decide

theorem sboxRow_countP (n : Fin 8) (row : Fin 4) (v : BitVec 4) :
    (List.finRange 16).countP (fun col => sboxes[n][row][col] = v) = 1 := by
  have hvalues : ((List.finRange 16).map (BitVec.ofFin (w := 4))).countP (fun entry => entry = v) = 1 := by
    revert v; decide
  rwa [← (sboxRow_perm n row).countP_eq, List.countP_map] at hvalues

/-- Settles O55: each of the four rows holds each output once. -/
theorem sboxLookupRule : Obligations.SboxLookupRule := by
  unfold Obligations.SboxLookupRule
  refine ⟨fun S b row col hrow hcol => sboxLookup_eq_entry S hrow hcol, fun n v => ?_⟩
  rw [← List.countP_eq_length_filter, countP_sboxLookup]
  simp only [sboxRow_countP]
  rfl

end Sys2Proof.Machine
end

section
/-! The round function by DES bits (R142, R143, R145, R146 of 42_round_function.md). -/

namespace Sys2Proof.Machine

theorem dbit_permute {n m : Nat} (T : PermTable n m) (v : BitVec n) (j : Fin m) :
    dbit (permute T v) (j.val + 1) = dbit v T.entries[j] :=
  (dbit_succ _ j.isLt).trans (permute_getMsbD T v j)

theorem dbit_xor {n : Nat} (a b : BitVec n) (i : Nat) : dbit (a ^^^ b) i = (dbit a i != dbit b i) :=
  BitVec.getLsbD_xor

theorem dbit_chunk (x : Subkey) (n : Fin 8) {t : Nat} (ht : 1 ≤ t ∧ t ≤ 6) :
    dbit (chunk x n) t = dbit x (6 * n.val + t) := by
  have habove : 48 - (42 - 6 * n.val + 6) = 6 * n.val := by omega
  rw [chunk, dbit_extractLsb' x (by omega) ht, habove]

/-- R145: the bits of the substituted value, cut into groups of four, are the S-box outputs. -/
theorem substitute_groups (x : Subkey) (n : Fin 8) :
    (List.ofFn fun i : Fin 4 => dbit (substitute x) (4 * n.val + i.val + 1)) = bitsOf (sboxOut x n) := by
  have hbits := bitsOf_substitute x
  rw [List.flatMap_def, List.map_ofFn] at hbits
  have hcut : (List.ofFn fun n : Fin 8 => List.ofFn fun i : Fin 4 => dbit (substitute x) (4 * n.val + i.val + 1)).flatten =
      (List.ofFn fun n => bitsOf (sboxOut x n)).flatten :=
    (List.ofFn_mul' (m := 4) fun i : Fin (4 * 8) => dbit (substitute x) (i.val + 1)).symm.trans hbits
  have hgroups := List.eq_iff_flatten_eq.mpr ⟨hcut, by simp [bitsOf_length]⟩
  exact congrFun (List.ofFn_injective hgroups) n

theorem dbit_substitute (x : Subkey) (n : Fin 8) {t : Nat} (ht : 1 ≤ t ∧ t ≤ 4) :
    dbit (substitute x) (4 * n.val + t) = dbit (sboxOut x n) t := by
  obtain ⟨i, rfl⟩ : ∃ i : Fin 4, t = i.val + 1 := ⟨⟨t - 1, by omega⟩, (Nat.sub_add_cancel ht.1).symm⟩
  exact congrFun (List.ofFn_injective (substitute_groups x n)) i

/-- Settles O56: a chunk is a slice of the mixed value, and P permutes the eight groups of four bits. -/
theorem roundFunctionByBits : Obligations.RoundFunctionByBits := by
  unfold Obligations.RoundFunctionByBits
  intro r k
  refine ⟨fun n t h1 h6 => ?_, fun n t h1 h4 => dbit_substitute _ n ⟨h1, h4⟩, fun j => dbit_permute pTable _ j⟩
  rw [dbit_chunk _ n ⟨h1, h6⟩, dbit_xor]

end Sys2Proof.Machine
end

section
/-! The permutation over bit vectors (R160 of 43_primitives.md). -/

namespace Sys2Proof.Machine

/-- Settles O51: it is what `dbit_permute` says of every table. -/
theorem permuteSelectsTableBits : Obligations.PermuteSelectsTableBits := by
  unfold Obligations.PermuteSelectsTableBits
  exact fun _ _ T v j => dbit_permute T v j

end Sys2Proof.Machine
end

section
/-! The rotation by slices, and its corner cases (R162, R163 of 43_primitives.md). -/

namespace Sys2Proof.Machine

/-- R162 by slices: the low `w - k` bits move up and the high `k` bits come round below them, for `k = n % w`. -/
theorem rotl_toNat_eq_slices {w : Nat} (v : BitVec w) (n : Nat) :
    (rotl v n).toNat = (v.extractLsb' 0 (w - n % w) ++ v.extractLsb' (w - n % w) (n % w)).toNat := by
  refine Nat.eq_of_testBit_eq fun i => ?_
  simp only [BitVec.testBit_toNat, rotl_getLsbD, BitVec.getLsbD_append, BitVec.getLsbD_extractLsb']
  by_cases hlow : i < n % w
  · simp only [hlow, if_true, decide_true, Bool.true_and]
  · have hin : i - n % w < w - n % w ↔ i < w := Nat.sub_lt_sub_iff_right (Nat.le_of_not_lt hlow)
    simp only [hlow, if_false, decide_false, hin, Nat.zero_add]

theorem rotl_of_mod_eq_zero {w n : Nat} (v : BitVec w) (h : n % w = 0) : rotl v n = v := by
  rw [rotl, ← BitVec.rotateLeft_mod_eq_rotateLeft, h]
  exact rotl_zero v

theorem rotl_width_add {w : Nat} (v : BitVec w) (n : Nat) : rotl v (w + n) = rotl v n := by
  rw [← rotl_rotl, rotl_width]

theorem zero_rotl (w n : Nat) : rotl (0#w) n = 0#w := by
  refine BitVec.eq_of_getMsbD_eq fun i _ => ?_
  simp only [getMsbD_rotl, BitVec.getMsbD_zero, Bool.and_false]

theorem allOnes_rotl (w n : Nat) : rotl (BitVec.allOnes w) n = BitVec.allOnes w := by
  refine BitVec.eq_of_getMsbD_eq fun i hi => ?_
  have hin : (n + i) % w < w := Nat.mod_lt _ (by omega)
  simp only [getMsbD_rotl, BitVec.getMsbD_allOnes, hi, hin, decide_true, Bool.true_and]

/-- Settles O52: the slices and the corner cases, each by its own lemma; adding rotations gives the case of w + 1. -/
theorem rotateLeftLaws : Obligations.RotateLeftLaws := by
  unfold Obligations.RotateLeftLaws
  exact ⟨fun _ n v _ => rotl_toNat_eq_slices v n, fun _ _ v h => rotl_of_mod_eq_zero v h,
    fun _ v => ⟨rotl_zero v, rotl_width v, rotl_width_add v 1⟩, fun _ a b v => rotl_rotl v a b,
    fun w n => ⟨zero_rotl w n, allOnes_rotl w n⟩⟩

end Sys2Proof.Machine
end

section
/-! The primitives over lists of bits (R160, R164 of 43_primitives.md; log 11): what they give, and the errors they report. -/

namespace Sys2Proof.Machine

/-- R160: while the entries are in range the bits they name are copied, and the rest of the table is read from its own place on. -/
theorem permuteBitsFrom_append (v : List Bool) {T₁ : List Nat} (hin : ∀ t ∈ T₁, 1 ≤ t ∧ t ≤ v.length) (T₂ : List Nat)
    (j : Nat) :
    permuteBitsFrom v j (T₁ ++ T₂) =
      andThen (permuteBitsFrom v (j + T₁.length) T₂) fun out => .next (T₁.map (fun t => v[t - 1]!) ++ out) := by
  induction T₁ generalizing j with
  | nil =>
    rw [List.nil_append, List.length_nil, Nat.add_zero]
    cases permuteBitsFrom v j T₂ <;> rfl
  | cons t ts ih =>
    rw [List.forall_mem_cons] at hin
    obtain ⟨ht, hts⟩ := hin
    have hplace : j + 1 + ts.length = j + (t :: ts).length := by rw [List.length_cons]; omega
    have hbit : v[t - 1]! = v[t - 1] := getElem!_pos v (t - 1) (by omega)
    rw [List.cons_append, permuteBitsFrom, dif_pos ht, ih hts, hplace, List.map_cons, hbit]
    cases permuteBitsFrom v (j + (t :: ts).length) T₂ <;> rfl

theorem permuteBits_of_inRange {T : List Nat} {v : List Bool} (hin : ∀ t ∈ T, 1 ≤ t ∧ t ≤ v.length) :
    permuteBits T v = .next (T.map fun t => v[t - 1]!) := by
  have happ := permuteBitsFrom_append v hin [] 1
  rwa [List.append_nil, permuteBitsFrom, andThen_next, List.append_nil] at happ

theorem permuteBits_of_outOfRange {T₁ : List Nat} {v : List Bool} (hin : ∀ t ∈ T₁, 1 ≤ t ∧ t ≤ v.length) {t : Nat}
    (hout : t < 1 ∨ v.length < t) (T₂ : List Nat) :
    permuteBits (T₁ ++ t :: T₂) v = .fault (.indexOutOfRange (T₁.length + 1) t) := by
  rw [permuteBits, permuteBitsFrom_append v hin, permuteBitsFrom, dif_neg (by omega), Nat.add_comm 1]
  rfl

theorem getElem?_map_permute {T : List Nat} {v : List Bool} (hin : ∀ t ∈ T, 1 ≤ t ∧ t ≤ v.length) {j : Nat}
    (hj : j < T.length) : (T.map fun t => v[t - 1]!)[j]? = v[T[j]! - 1]? := by
  have hentry := hin T[j] (List.getElem_mem hj)
  have hplace : T[j] - 1 < v.length := by omega
  rw [List.getElem?_map, List.getElem?_eq_getElem hj, Option.map_some, getElem!_pos T j hj, getElem!_pos v _ hplace,
    List.getElem?_eq_getElem hplace]

theorem xorBits_of_length_ne {a b : List Bool} (h : a.length ≠ b.length) :
    xorBits a b = .fault (.lengthMismatch a.length b.length) := if_neg h

theorem xorBits_of_length_eq {a b : List Bool} (h : a.length = b.length) : xorBits a b = .next (List.zipWith xor a b) :=
  if_pos h

theorem getElem?_zipWith_xor {a b : List Bool} (h : a.length = b.length) {i : Nat} (hi : i < a.length) :
    (List.zipWith xor a b)[i]? = some (a[i]! != b[i]!) := by
  have hi' : i < b.length := h ▸ hi
  rw [List.getElem?_zipWith, List.getElem?_eq_getElem hi, List.getElem?_eq_getElem hi', getElem!_pos a i hi,
    getElem!_pos b i hi']

/-- Settles O58: the entries before the first one out of range are copied (`permuteBitsFrom_append`), and xor has two cases. -/
theorem listPrimitives : Obligations.ListPrimitives := by
  unfold Obligations.ListPrimitives
  refine ⟨fun T v hin => ?_, fun T₁ T₂ t v hin hout => permuteBits_of_outOfRange hin hout T₂,
    fun a b h => xorBits_of_length_ne h, fun a b h => ?_⟩
  · exact ⟨_, permuteBits_of_inRange hin, List.length_map _, fun j hj => getElem?_map_permute hin hj⟩
  · have hlength : (List.zipWith xor a b).length = a.length := by rw [List.length_zipWith, ← h, Nat.min_self]
    exact ⟨_, xorBits_of_length_eq h, hlength, fun i hi => getElem?_zipWith_xor h hi⟩

end Sys2Proof.Machine
end

section
/-! The calls of the functional layer over lists that fail (R168 of 43_primitives.md, 93 I20; log 11). -/

namespace Sys2Proof.Machine

theorem deriveSubkeysBits_of_length_ne {key : List Bool} (h : key.length ≠ 64) :
    deriveSubkeysBits key = .fault (.invalidInputLength key.length) := if_neg h

theorem transformBlockBits_of_length_ne {block : List Bool} (h : block.length ≠ 64) (ks : List (List Bool))
    (dir : Direction) : transformBlockBits block ks dir = .fault (.invalidInputLength block.length) := if_neg h

theorem transformBlockBits_of_badSubkeys {block : List Bool} (hblock : block.length = 64) {ks : List (List Bool)}
    (hks : ks.length ≠ 16 ∨ ∃ k ∈ ks, k.length ≠ 48) (dir : Direction) :
    transformBlockBits block ks dir = .refused .subkeySequence := by
  have hshape : ¬(ks.length = 16 ∧ ks.all (fun k => k.length == 48) = true) := by
    rintro ⟨hcount, hwidths⟩
    obtain hne | ⟨k, hk, hne⟩ := hks
    · exact hne hcount
    · exact hne (beq_iff_eq.mp (List.all_eq_true.mp hwidths k hk))
  exact (if_pos hblock).trans (if_neg hshape)

/-- Settles O57: the length is tested before anything else, then the shape of the subkey sequence. -/
theorem functionalLayerFailures : Obligations.FunctionalLayerFailures := by
  unfold Obligations.FunctionalLayerFailures
  exact ⟨fun _ h => deriveSubkeysBits_of_length_ne h, fun _ ks dir h => transformBlockBits_of_length_ne h ks dir,
    fun _ _ dir hblock hks => transformBlockBits_of_badSubkeys hblock hks dir⟩

end Sys2Proof.Machine
end

section
/-! The properties of the tables (R195 of 44_tables.md). -/

namespace Sys2Proof.Machine

/-- Settles O53: each of the two tables names the places of the other. -/
theorem initialAndFinalPermutationInverse : Obligations.InitialAndFinalPermutationInverse := by
  unfold Obligations.InitialAndFinalPermutationInverse
  exact fun v => ⟨permute_ipInv_ip v, permute_ip_ipInv v⟩

theorem pTable_perm : pTable.entries.toList.Perm (List.range' 1 32) := by decide

theorem eTable_count : ∀ i ∈ List.range' 1 32, eTable.entries.toList.count i = 1 ∨ eTable.entries.toList.count i = 2 := by
  decide

theorem pc1Table_nodup : pc1Table.entries.toList.Nodup := by decide

theorem pc1Table_mod_eight_ne_zero : ∀ t ∈ pc1Table.entries.toList, t % 8 ≠ 0 := by decide

theorem pc2Table_nodup : pc2Table.entries.toList.Nodup := by decide

/-- A row has each output at exactly one column, so it has each output. -/
theorem mem_sboxRow (n : Fin 8) (row : Fin 4) (v : BitVec 4) : v ∈ sboxes[n][row].toList := by
  have hcount : 0 < (List.finRange 16).countP (fun col => sboxes[n][row][col] = v) := by
    rw [sboxRow_countP]; exact Nat.one_pos
  obtain ⟨col, -, hcol⟩ := List.countP_pos_iff.mp hcount
  rw [← of_decide_eq_true hcol]
  exact Vector.mem_toList_iff.mpr (Vector.getElem_mem col.isLt)

theorem shifts_sum : shifts.toList.sum = 28 := keyHalvesReturn.1

/-- Settles O54: clause by clause; the entries are in range because every permutation table carries that check. -/
theorem tableProperties : Obligations.TableProperties := by
  unfold Obligations.TableProperties
  have hpc1 : ∀ t ∈ pc1Table.entries.toList, 1 ≤ t ∧ t ≤ 64 ∧ t % 8 ≠ 0 := fun t ht =>
    have ⟨hpos, hle⟩ := permTable_entry_inRange pc1Table t ht
    ⟨hpos, hle, pc1Table_mod_eight_ne_zero t ht⟩
  exact ⟨pTable_perm, eTable_count, pc1Table_nodup, hpc1, pc2Table_nodup, permTable_entry_inRange pc2Table, mem_sboxRow,
    shifts_sum⟩

end Sys2Proof.Machine
end

section
/-! The inputs KEY and DIN: their write rules, idle and busy (R206 to R209, R223), and their stability while a command is in
progress (R280). -/

namespace Sys2Proof.Machine

/-- `e'` has the inputs of `e`: KEY, DIN and their validity bits. -/
def Engine.SameInputs (e e' : Engine) : Prop :=
  e'.key = e.key ∧ e'.din = e.din ∧ e'.keyHiV = e.keyHiV ∧ e'.keyLoV = e.keyLoV ∧ e'.dinHiV = e.dinHiV ∧ e'.dinLoV = e.dinLoV

/-- R280: the moves that write an input are the four input writes, all of an idle engine, and CLEAR and reset. -/
theorem Engine.Move.sameInputs_of_busy {e e' : Engine} (hm : e.Move e') (hb : e.busy = true) :
    e' = Engine.reset ∨ e.SameInputs e' := by
  cases hm with
  | cleared => exact .inl rfl
  | keyHiWritten hidle | keyLoWritten hidle | dinHiWritten hidle | dinLoWritten hidle => simp [hidle] at hb
  | _ => exact .inr ⟨rfl, rfl, rfl, rfl, rfl, rfl⟩

/-- Settles O25: every step is a move of a busy engine. -/
theorem inputsFixedWhileBusy : Obligations.InputsFixedWhileBusy := by
  unfold Obligations.InputsFixedWhileBusy
  intro s t _ hb h ht
  exact (step_move ht h).sameInputs_of_busy hb

theorem inputWrite_busy {f : Engine → Engine} {e : Engine} (hb : e.busy = true) : inputWrite f e = reject errBusy e := by
  simp [inputWrite, hb]

/-- R223: BUSY rejects the write to each of the four input registers. -/
theorem writeEffect_input_busy {r : Reg} (hr : r ∈ [Reg.keyHi, .keyLo, .dinHi, .dinLo]) (w : Word) {e : Engine}
    (hb : e.busy = true) : writeEffect r w e = reject errBusy e := by
  cases r with
  | keyHi | keyLo | dinHi | dinLo => exact inputWrite_busy hb
  | _ => simp at hr

/-- R212, R214, R217, R221, R222: a write to a read-only register is ignored. -/
theorem writeEffect_readOnly {r : Reg}
    (hr : r ∈ [Reg.status, .doutHi, .doutLo, .dbgL, .dbgR, .dbgC, .dbgD, .skHi, .skLo, .id]) (w : Word) (e : Engine) :
    writeEffect r w e = e := by
  cases r with
  | cmd | keyHi | keyLo | dinHi | dinLo | skSel => simp at hr
  | _ => rfl

/-- Settles O37: an idle engine takes each of the four writes and a busy one rejects it; the other writes leave ERR alone. -/
theorem inputWrites : Obligations.InputWrites := by
  unfold Obligations.InputWrites
  intro s w
  simp only [writeReg_eq, State.onEngine]
  refine ⟨fun hb => ?_, fun hb r hr => ?_, fun r hr => ⟨_, rfl, ?_⟩⟩
  · simp only [writeEffect, inputWrite_idle hb]
    exact ⟨rfl, rfl, rfl, rfl⟩
  · rw [writeEffect_input_busy hr w hb]
    rfl
  · obtain rfl | hr := List.mem_cons.mp hr
    · rfl
    · rw [writeEffect_readOnly hr]

end Sys2Proof.Machine
end

section
/-! What the data registers read as, bit by bit, the selector of the subkey readback, and the registers that cannot be written
(R204 to R222). -/

namespace Sys2Proof.Machine

theorem hiWord_getLsbD (v : Block) {i : Nat} (hi : i < 32) : (hiWord v).getLsbD i = v.getLsbD (32 + i) := by
  simp [hiWord, hi]

/-- The lower word of a value: DIN_LO, DOUT_LO and SK_LO read it (R210, R213, R220). -/
theorem extractLsb'_word_getLsbD {n : Nat} (v : BitVec n) {i : Nat} (hi : i < 32) :
    (v.extractLsb' 0 32).getLsbD i = v.getLsbD i := by
  simp [hi]

/-- A half of the key-schedule state read as a word: bits 31:28 are 0 (R216). -/
theorem keyHalf_word_getLsbD (v : KeyHalf) {i : Nat} (hi : i < 32) :
    (v.setWidth 32).getLsbD i = (decide (i < 28) && v.getLsbD i) := by
  have hbeyond : ¬ i < 28 → v.getLsbD i = false := fun h => BitVec.getLsbD_of_ge v i (by omega)
  by_cases h : i < 28 <;> simp [hi, h, hbeyond]

/-- R219: SK_HI reads the upper sixteen bits of the subkey, bits 31:16 are 0. -/
theorem subkey_hi_getLsbD (v : Subkey) {i : Nat} (hi : i < 32) :
    ((v.extractLsb' 32 16).setWidth 32).getLsbD i = (decide (i < 16) && v.getLsbD (32 + i)) := by
  simp [hi]

/-- Settles O35: a register reads as zero, as a half of a 64-bit element, as an element of 32 bits, or as one widened with zeros. -/
theorem dataRegisterReads : Obligations.DataRegisterReads := by
  unfold Obligations.DataRegisterReads
  intro e i hi
  exact ⟨BitVec.getLsbD_zero, BitVec.getLsbD_zero, hiWord_getLsbD e.din hi, extractLsb'_word_getLsbD e.din hi,
    hiWord_getLsbD e.dout hi, extractLsb'_word_getLsbD e.dout hi, rfl, rfl, keyHalf_word_getLsbD e.c hi,
    keyHalf_word_getLsbD e.d hi, subkey_hi_getLsbD (selectedSubkey e) hi, extractLsb'_word_getLsbD (selectedSubkey e) hi⟩

/-- R218: the low four bits of a word, as the remainder of its number. -/
theorem extractLsb'_low_four (w : Word) : w.extractLsb' 0 4 = BitVec.ofNat 4 (w.toNat % 16) :=
  BitVec.eq_of_toNat_eq (by simp [BitVec.extractLsb'_toNat])

/-- Settles O38: the write keeps the low four bits, and the read widens them with zeros. -/
theorem subkeySelector : Obligations.SubkeySelector := by
  unfold Obligations.SubkeySelector
  intro s w
  refine ⟨?_, BitVec.toNat_setWidth_of_le (by decide), rfl⟩
  rw [writeReg_eq, ← extractLsb'_low_four]
  rfl

/-- Settles O39: the write's effect on the engine is none, and the two constants are read off. -/
theorem readOnlyRegisters : Obligations.ReadOnlyRegisters := by
  unfold Obligations.ReadOnlyRegisters
  refine ⟨fun s w r hr => ?_, fun e => ⟨rfl, rfl⟩⟩
  rw [writeReg_eq, State.onEngine, writeEffect_readOnly hr]

end Sys2Proof.Machine
end

section
/-! The control commands NOP, CLEAR and ACK (R200 to R202). -/

namespace Sys2Proof.Machine

/-- Settles O6: NOP is the identity on the engine. -/
theorem nopChangesNothing : Obligations.NopChangesNothing := by
  unfold Obligations.NopChangesNothing
  exact ⟨rfl, exec_eq .nop⟩

/-- R270, R273: at the reset values every register but ID reads 0. -/
theorem readReg_reset {r : Reg} (hr : r ≠ .id) : readReg r Engine.reset = 0#32 := by
  cases r with
  | id => exact absurd rfl hr
  | _ => decide

/-- R101, R121: an engine at its reset values has neither key nor block, so it rejects the multi-stage commands. -/
theorem commandEffect_reset {i : Instr} (hi : i = .keysched ∨ i = .encrypt ∨ i = .decrypt) :
    commandEffect i Engine.reset = reject errInvalidInputLength Engine.reset := by
  obtain rfl | rfl | rfl := hi
  · exact keyschedVerdict_incomplete rfl (.inl rfl)
  · exact cipherVerdict_incomplete .encrypt rfl (.inl rfl)
  · exact cipherVerdict_incomplete .decrypt rfl (.inl rfl)

/-- Settles O7: the engine after CLEAR is that after a reset, which is idle, reads 0 and holds no input. -/
theorem clearResetsEveryElement : Obligations.ClearResetsEveryElement := by
  unfold Obligations.ClearResetsEveryElement
  refine ⟨rfl, fun s => ⟨s.onEngine (commandEffect .clear), exec_eq .clear s, rfl, fun hr => engineTurn_idle hr rfl,
    readReg_reset (by decide), readReg_reset (by decide), readReg_reset (by decide), fun i hi => ?_⟩⟩
  rw [exec_eq, State.onEngine]
  exact congrArg (fun e => Host.Outcome.next { s with engine := e }) (commandEffect_reset hi)

/-- Settles O8: ACK is `acknowledge` on the engine. -/
theorem ackClearsDoneAndErr : Obligations.AckClearsDoneAndErr := by
  unfold Obligations.AckClearsDoneAndErr
  exact ⟨rfl, fun s => ⟨s.onEngine acknowledge, exec_eq .ack s, rfl, rfl⟩⟩

end Sys2Proof.Machine
end

section
/-! The verdict on a write to CMD, in the order of the lines of R245 (60_exceptions.md). -/

namespace Sys2Proof.Machine

theorem keyschedVerdict_busy {e : Engine} (hb : e.busy = true) : keyschedVerdict e = reject errBusy e := by
  simp [keyschedVerdict, hb]

/-- R245: the lines that concern KEYSCHED. -/
theorem keyschedVerdict_eq_lines (e : Engine) :
    keyschedVerdict e =
      if e.busy = true then reject errBusy e
      else if e.keyHiV = false ∨ e.keyLoV = false then reject errInvalidInputLength e
      else acceptKeysched e := by
  split_ifs with hb hkey
  · exact keyschedVerdict_busy hb
  · exact keyschedVerdict_incomplete (by simpa using hb) hkey
  · simp only [not_or, Bool.not_eq_false] at hkey
    obtain ⟨hhi, hlo⟩ := hkey
    exact keyschedVerdict_accepted (by simpa using hb) hhi hlo

/-- R245: the lines that concern ENCRYPT and DECRYPT. -/
theorem cipherVerdict_eq_lines (op : Op) (e : Engine) :
    cipherVerdict op e =
      if e.busy = true then reject errBusy e
      else if e.dinHiV = false ∨ e.dinLoV = false then reject errInvalidInputLength e
      else if e.ksValid = false then reject errNoKeySchedule e
      else acceptCommand op e := by
  split_ifs with hb hdin hks
  · exact cipherVerdict_busy op hb
  · exact cipherVerdict_incomplete op (by simpa using hb) hdin
  · simp only [not_or, Bool.not_eq_false] at hdin
    obtain ⟨hhi, hlo⟩ := hdin
    exact cipherVerdict_no_schedule op (by simpa using hb) hhi hlo hks
  · simp only [not_or, Bool.not_eq_false] at hdin
    obtain ⟨hhi, hlo⟩ := hdin
    exact cipherVerdict_accepted op (by simpa using hb) hhi hlo (by simpa using hks)

/-- R245: the lines after the first, by the opcode of a word that spells a command. -/
def commandLines (opc : BitVec 4) (e : Engine) : Engine :=
  if opc = 0#4 then e
  else if opc = 4#4 then Engine.reset
  else if opc = 5#4 then acknowledge e
  else if e.busy = true then reject errBusy e
  else if opc = 1#4 then
    if e.keyHiV = false ∨ e.keyLoV = false then reject errInvalidInputLength e else acceptKeysched e
  else if e.dinHiV = false ∨ e.dinLoV = false then reject errInvalidInputLength e
  else if e.ksValid = false then reject errNoKeySchedule e
  else acceptCommand (if opc = 2#4 then .encrypt else .decrypt) e

theorem commandEffect_eq_commandLines (i : Instr) (e : Engine) : commandEffect i e = commandLines (opcodeOf i) e := by
  cases i with
  | nop | clear | ack => rfl
  | keysched => exact keyschedVerdict_eq_lines e
  | encrypt => exact cipherVerdict_eq_lines .encrypt e
  | decrypt => exact cipherVerdict_eq_lines .decrypt e

/-- R84, R245: the illegal word comes first, and the opcode selects among the other lines. -/
theorem writeEffect_cmd_eq_lines (w : Word) (e : Engine) :
    writeEffect .cmd w e =
      if rsvdField w ≠ 0#28 ∨ 5 < (opcField w).toNat then reject errIllegalCommand e else commandLines (opcField w) e := by
  have herror : (∃ x, decode w = .error x) ↔ rsvdField w ≠ 0#28 ∨ 5 < (opcField w).toNat := by
    rw [exists_decode_eq_error_iff, opcField_toNat, ne_eq, ne_eq, rsvdField_eq_zero]
  cases hd : decode w with
  | error x => rw [if_pos (herror.1 ⟨x, hd⟩), writeEffect_cmd_error hd]
  | ok i =>
    have hlegal : ¬ (rsvdField w ≠ 0#28 ∨ 5 < (opcField w).toNat) := by simp [← herror, hd]
    obtain ⟨-, hopc⟩ := (decode_eq_ok_iff_fields w i).1 hd
    rw [if_neg hlegal, writeEffect_cmd_ok hd, hopc, commandEffect_eq_commandLines]

/-- R51, R52: the offsets with off[5:2] = 0 name CMD. -/
theorem regAt_eq_cmd {off : BitVec 6} (h : off.extractLsb' 2 4 = 0#4) : regAt off = .cmd := by
  simp only [regAt, h]
  rfl

/-- Settles O5: a malformed write comes first, and a well-formed one to CMD has the effect `writeEffect_cmd_eq_lines` gives. -/
theorem commandVerdictInOrder : Obligations.CommandVerdictInOrder := by
  unfold Obligations.CommandVerdictInOrder
  intro s off size w hoff
  by_cases hmalformed : size ≠ 4 ∨ off.extractLsb' 0 2 ≠ 0#2
  · rw [if_pos hmalformed]
    exact busAccess_malformed (alignedWord_of_malformed hmalformed) (.write w) s
  · rw [if_neg hmalformed]
    simp only [not_or, not_not] at hmalformed
    obtain ⟨rfl, haligned⟩ := hmalformed
    rw [busAccess_write (alignedWord_of_aligned haligned), regAt_eq_cmd hoff, State.onEngine, writeEffect_cmd_eq_lines]
    rfl

end Sys2Proof.Machine
end

section
/-! Which operations can set which error codes (R240, R243, R244). -/

namespace Sys2Proof.Machine

/-- R243, R244: the codes a move can leave in ERR, where it does not leave ERR alone. -/
theorem Engine.Move.err_cases {e e' : Engine} (hm : e.Move e') :
    e'.err = e.err ∨ e'.err ∈ [errNone, errInvalidInputLength, errNoKeySchedule, errBusy, errIllegalCommand] := by
  cases hm with
  | rejected hcode => exact .inr (List.mem_cons_of_mem _ hcode)
  | acknowledged | cleared => exact .inr (List.mem_cons_self ..)
  | _ => exact .inl rfl

theorem inputWrite_err {f : Engine → Engine} {e : Engine} (hf : (f e).err = e.err) :
    (inputWrite f e).err = e.err ∨ (inputWrite f e).err = errBusy := by
  obtain ⟨-, h⟩ | ⟨-, h⟩ := inputWrite_cases f e
  · exact .inr (by simp [h])
  · exact .inl (by rw [h, hf])

/-- R243: BUSY is the one code that a write to an input register sets. -/
theorem writeEffect_input_err {r : Reg} (hr : r ∈ [Reg.keyHi, .keyLo, .dinHi, .dinLo]) (w : Word) (e : Engine) :
    (writeEffect r w e).err = e.err ∨ (writeEffect r w e).err = errBusy := by
  cases r with
  | keyHi | keyLo | dinHi | dinLo => exact inputWrite_err rfl
  | _ => simp at hr

theorem writeEffect_other_err {r : Reg} (hr : r ∉ [Reg.cmd, .keyHi, .keyLo, .dinHi, .dinLo]) (w : Word) (e : Engine) :
    (writeEffect r w e).err = e.err := by
  cases r with
  | cmd | keyHi | keyLo | dinHi | dinLo => simp at hr
  | _ => rfl

/-- R55, R57: a read changes nothing in the engine, well formed or not. -/
theorem busAccess_read_engine {p : Port} {n : Nat} {s t : State}
    (h : busAccess { port := p, size := n, kind := .read } s = .next t) : t.engine = s.engine := by
  obtain ⟨off, -, ⟨-, rfl⟩ | ⟨-, -, rfl⟩ | ⟨w, -, hkind, -⟩⟩ := busAccess_cases h
  · rfl
  · rfl
  · nomatch hkind

theorem ksStep_err {e e' : Engine} (h : ksStep e = .next e') : e'.err = e.err := by
  obtain ⟨-, rfl⟩ | ⟨j, -, rfl⟩ := ksStep_cases h
  · rfl
  · split <;> rfl

theorem btStep_err {dir : Direction} {e e' : Engine} (h : btStep dir e = .next e') : e'.err = e.err := by
  obtain ⟨-, rfl⟩ | ⟨i, -, rfl⟩ | ⟨-, rfl⟩ := btStep_cases h <;> rfl

theorem engineStep_err {e e' : Engine} (h : engineStep e = .next e') : e'.err = e.err := by
  obtain ⟨-, h⟩ | ⟨-, h⟩ | ⟨-, h⟩ := engineStep_cases h
  · exact ksStep_err h
  · exact btStep_err h
  · exact btStep_err h

/-- Settles O24: a CMD write is a move of the engine, and each of the other operations has its lemma on ERR. -/
theorem errorCodesByOperation : Obligations.ErrorCodesByOperation := by
  unfold Obligations.ErrorCodesByOperation
  simp only [writeReg_eq, Host.Outcome.next.injEq]
  refine ⟨?_, ?_, ?_, fun s t p n => busAccess_read_engine, fun e e' => engineStep_err, fun s => rfl⟩
  · rintro s _ w rfl
    exact (Engine.Move.of_writeEffect .cmd w s.engine).err_cases
  · rintro s _ r w hr rfl
    exact writeEffect_input_err hr w s.engine
  · rintro s _ r w hr rfl
    exact writeEffect_other_err hr w s.engine

end Sys2Proof.Machine
end

section
/-! Before the first reset (R258, R271). -/

namespace Sys2Proof.Machine

/-- R271: neither an access nor a poll is admitted. -/
theorem hostTurn_before_reset {s : State} {rest : List HostOp} (hr : s.ready = false)
    (hh : (∃ a, s.host = .access a :: rest) ∨ s.host = .wait :: rest) : hostTurn s = .refused .accessBeforeReset := by
  obtain ⟨a, hh⟩ | hh := hh
  · simp [hostTurn, hh, hr]
  · simp [hostTurn, hh, hr]

/-- R258: an engine that has not been reset has no turn by default. -/
theorem step_default_before_reset {s : State} (hr : s.ready = false) (ht : s.turns = []) : step s = hostTurn s := by
  have hhost : chosenAgent s = .host := by simp [chosenAgent, ht, defaultAgent, hr]
  rw [step_eq, hhost, afterChoice_of_no_turn ht, turnOf]

/-- Settles O44: the host's turn, listed or by default, is refused; loss of power and the engine's turn are `unspecifiedTurn`. -/
theorem nothingBeforeTheFirstReset : Obligations.NothingBeforeTheFirstReset := by
  unfold Obligations.NothingBeforeTheFirstReset
  refine ⟨fun s rest hr ht hh => ?_, fun s ts h => ?_⟩
  · obtain ⟨ts, ht⟩ | ht := ht
    · rw [step_listed ht]
      exact hostTurn_before_reset (s := { s with turns := ts }) hr hh
    · rw [step_default_before_reset hr ht]
      exact hostTurn_before_reset hr hh
  · obtain ht | ⟨hr, ht⟩ := h
    · rw [step_listed ht]
      rfl
    · rw [step_listed ht]
      exact engineTurn_unspecified (s := { s with turns := ts }) hr

end Sys2Proof.Machine
end

section
/-! Commands while one is in progress (R281), and the external reset (R270, R273). -/

namespace Sys2Proof.Machine

/-- R281: a busy engine rejects the multi-stage commands, whatever inputs it holds. -/
theorem commandEffect_multiStage_busy {i : Instr} (hi : i = .keysched ∨ i = .encrypt ∨ i = .decrypt) {e : Engine}
    (hb : e.busy = true) : commandEffect i e = reject errBusy e := by
  obtain rfl | rfl | rfl := hi
  · exact keyschedVerdict_busy hb
  · exact cipherVerdict_busy .encrypt hb
  · exact cipherVerdict_busy .decrypt hb

/-- Settles O11: the verdicts look at BUSY first, and the effects of NOP, ACK, CLEAR and a write to SK_SEL do not look at it. -/
theorem busyRejectsMultiStageCommands : Obligations.BusyRejectsMultiStageCommands := by
  unfold Obligations.BusyRejectsMultiStageCommands
  intro s hb
  refine ⟨fun i hi => ?_, exec_eq .nop s, exec_eq .ack s, exec_eq .clear s, fun w => writeReg_eq .skSel w s⟩
  rw [exec_eq, State.onEngine, commandEffect_multiStage_busy hi hb]
  rfl

/-- R270: a listed reset is the next event, whoever would move by default. -/
theorem step_reset {s : State} {ts : List Agent} (ht : s.turns = .reset :: ts) :
    step s = .next (resetTurn { s with turns := ts }) :=
  step_listed ht

/-- Settles O42: the reset turn puts the engine at `Engine.reset`, whose elements are those written out. -/
theorem resetEvent : Obligations.ResetEvent := by
  unfold Obligations.ResetEvent
  intro s ts ht
  rw [step_reset ht]
  rfl

/-- Settles O43: the machine after reset holds the reset engine, whose registers but ID read 0 by `readReg_reset`. -/
theorem registersAfterReset : Obligations.RegistersAfterReset := by
  unfold Obligations.RegistersAfterReset
  exact ⟨rfl, rfl, rfl, fun r hr => readReg_reset hr⟩

end Sys2Proof.Machine
end
